-- ==== Sys2Proof/Word.lean ====
section
/-! DEFINITION. The one machine word of the block: a byte (R7, R8 of 00_scope.md). -/

namespace Sys2Proof

/-- A byte: "an 8-bit unsigned value in 0..255" (R7). `+` on it is the spec's `+8`, modulo 256 (R8). -/
abbrev Byte := BitVec 8

end Sys2Proof
end

