-- ==== Sys2Proof/Config.lean ====
section
/-! DEFINITION. What is fixed for the block (the parameters of R6, 00_scope.md) and the values the spec leaves
open: the transport's failure type, POLL_DELAY and the result of a bus write. -/

namespace Sys2Proof

/-- A type of failure values as plain data: token 0 and the tokens `p` admits. Over all `p` these are, one for one, all
the types a failure value that can be written out can have (`tokens_are_any_type` in Laws/Tokens.lean). -/
structure Tokens (p : Nat → Bool) where
  token : Nat
  admitted : token = 0 ∨ p token = true
  deriving DecidableEq, Repr

namespace Config

/-- Which tokens are failure values: this makes the OPEN type `TErr` (R6, D16) a free one. A free value (log entry 7):
no value of it can be proved, so nothing is known of `TErr` but that it holds a value. -/
opaque failureToken : Nat → Bool

end Config

/-- The opaque failure value of the transport (`TErr`, R6, D16, I4), an OPEN type: the token type of the free value
`Config.failureToken`. The model keeps such a value in ERRTOK and compares nothing about it (Laws/Tokens.lean). -/
abbrev TErr := Tokens Config.failureToken

/-- A duration, at least 0 (R6, R113), in milliseconds: the fraction `num / (denPred + 1)`. DESIGN CHOICE: rational
numbers (log entry 8). -/
structure Duration where
  num : Nat
  denPred : Nat := 0
  deriving DecidableEq, Repr, Inhabited

/-- What the transport's `write` returns (R61, 20_memory.md). -/
inductive WriteResult where
  /-- the transport accepted the bytes -/
  | ok
  /-- an opaque failure -/
  | terr (e : TErr)
  deriving DecidableEq, Repr, Inhabited

/-- The two readings of 90_conflicts.md C1: what the parser does on 0x00 in state ZERO (I13). -/
inductive ZeroInZeroFound where
  /-- stay in ZERO: the spec's reading (R154, D5) -/
  | stay
  /-- go to START: the literal reading of the source's table, kept for the crosscheck only -/
  | restart
  deriving DecidableEq, Repr

namespace Config

/-- MAX_PAYLOAD (R6). -/
def maxPayload : Nat := 254
/-- WINDOW (R6): bytes requested by each ready-read. -/
def window : Nat := 32
/-- TFI_H2D (R6). -/
def tfiH2D : Byte := 0xD4#8
/-- TFI_D2H (R6). -/
def tfiD2H : Byte := 0xD5#8
/-- PRE0 (R6). -/
def pre0 : Byte := 0x00#8
/-- PRE1 (R6). -/
def pre1 : Byte := 0xFF#8
/-- FBUF_SIZE = MAX_PAYLOAD + 6 (R6, R92). -/
def fbufSize : Nat := 260

/-- The reading of C1 the block takes (R154). DESIGN CHOICE of the spec, D5 (log entry 12). -/
def zeroInZeroFound : ZeroInZeroFound := .stay

/-- POLL_DELAY (R6, OPEN): the sleep before every read attempt. A free value (log entry 8):
no value of it can be proved. -/
opaque pollDelay : Duration

/-- The result of the n-th bus write, where `State.writeResults` does not draw it. A free value (R61, I5; log
entry 6). -/
opaque freeWriteResult : Nat → WriteResult

end Config

end Sys2Proof
end

