-- ==== Sys2Proof/Syntax.lean ====
section
/-! DEFINITION. The eight operations of spec/opcode_table.json with their operands (R111, R113, 30_encoding.md), and
the command the client presents on the command port (R110). -/

namespace Sys2Proof

/-- One constructor per row of the opcode table. Each operand has the type R113 gives it, so an operand outside
its type cannot be written down. -/
inductive Instr where
  /-- CSUM.FOLD, CMD 0x00 (R233) -/
  | csumFold (seed : Byte) (xs : List Byte)
  /-- PRE.SCAN, CMD 0x01 (R164) -/
  | preScan (xs : List Byte)
  /-- HDR.PARSE, CMD 0x02 (R165) -/
  | hdrParse (xs : List Byte)
  /-- SEND, CMD 0x03 (R130): `pin` is the content the client gives the PIN space, of any length -/
  | send (pin : List Byte)
  /-- RECV, CMD 0x04 (R180) -/
  | recv (dcap : Nat)
  /-- RECV.TO, CMD 0x05 (R191) -/
  | recvTo (dcap : Nat) (t : Duration)
  /-- RECV.ACK, CMD 0x06 (R210) -/
  | recvAck
  /-- SEND.ACK, CMD 0x07 (R215) -/
  | sendAck (pin : List Byte)
  deriving DecidableEq, Repr

/-- One command on the command port: the command byte and the operand lines (R110, R113). DESIGN CHOICE (log entry
1): the spec gives operands types and no bits, so the port has one typed line for each kind of operand, and a line
the operation does not take idles at zero or empty. -/
structure Command where
  /-- CMD: OP in bits 3..0, bits 7..4 zero -/
  cmd : Byte
  /-- the line of `seed` -/
  seed : Byte := 0
  /-- the line of `xs` and `PIN` -/
  bytes : List Byte := []
  /-- the line of `DCAP` -/
  dcap : Nat := 0
  /-- the line of `t` -/
  dur : Duration := { num := 0 }
  deriving DecidableEq, Repr

end Sys2Proof
end

