-- ==== Sys2Proof/WellFormed.lean ====
section
/-! DEFINITION. The checks a presented command must pass (R110, R112, R113, 30_encoding.md). An `Instr` needs no check
of its own: its operands' types are R113's. -/

namespace Sys2Proof

/-- Which operand lines an operation takes (R113). -/
structure Lines where
  seed  : Bool := false
  bytes : Bool := false
  dcap  : Bool := false
  dur   : Bool := false
  deriving DecidableEq, Repr

/-- R113's table by operation code; `none` for the reserved codes 0x8 .. 0xF (R112). -/
def linesOf (op : BitVec 4) : Option Lines :=
  match op.toNat with
  | 0 => some { seed := true, bytes := true }
  | 1 => some { bytes := true }
  | 2 => some { bytes := true }
  | 3 => some { bytes := true }
  | 4 => some { dcap := true }
  | 5 => some { dcap := true, dur := true }
  | 6 => some {}
  | 7 => some { bytes := true }
  | _ => none

namespace Command

/-- `CMD[3:0]`, the operation code (R110). -/
def op (c : Command) : BitVec 4 := c.cmd.extractLsb' 0 4

/-- `CMD[7:4]`, which must be 0000 (R110). -/
def high (c : Command) : BitVec 4 := c.cmd.extractLsb' 4 4

/-- Every line that `l` does not take is idle. -/
def idleOutside (c : Command) (l : Lines) : Bool :=
  (l.seed || c.seed == 0) && (l.bytes || c.bytes.isEmpty) && (l.dcap || c.dcap == 0) && (l.dur || c.dur == { num := 0 })

/-- A command spells an operation: its high nibble is zero, its code is assigned (R112), and it presents no operand
the operation does not take (R113). -/
def wellFormed (c : Command) : Bool :=
  c.high == 0 &&
  match linesOf c.op with
  | none => false
  | some l => c.idleOutside l

end Command

end Sys2Proof
end

