-- ==== Sys2Proof/Decode.lean ====
section
/-! DEFINITION. The decoder of the command port, total on every command and rejecting by name (R110 to R113,
30_encoding.md), and after it the encoder and the assembler text (R114). -/

namespace Sys2Proof

/-- Why a command spells no operation. -/
inductive DecodeReject where
  /-- `CMD[7:4] ≠ 0000` (R112) -/
  | reservedHighNibble (cmd : Byte)
  /-- `OP` in `0x8 .. 0xF` (R112) -/
  | reservedOp (cmd : Byte)
  /-- an operand the operation does not take "cannot be presented" (R113) -/
  | strayOperand (cmd : Byte)
  deriving DecidableEq, Repr

/-- R111's table: the operation of an operation code, its operands read off the lines. -/
def decodeOp (op : BitVec 4) (c : Command) : Option Instr :=
  match op.toNat with
  | 0 => some (.csumFold c.seed c.bytes)
  | 1 => some (.preScan c.bytes)
  | 2 => some (.hdrParse c.bytes)
  | 3 => some (.send c.bytes)
  | 4 => some (.recv c.dcap)
  | 5 => some (.recvTo c.dcap c.dur)
  | 6 => some .recvAck
  | 7 => some (.sendAck c.bytes)
  | _ => none

/-- The decoder (R110 to R113). -/
def decode (c : Command) : Except DecodeReject Instr :=
  if c.high ≠ 0 then .error (.reservedHighNibble c.cmd)
  else
    match linesOf c.op, decodeOp c.op c with
    | some l, some i => if c.idleOutside l then .ok i else .error (.strayOperand c.cmd)
    | _, _ => .error (.reservedOp c.cmd)

/-- The command that spells an operation (R111, R113). -/
def encode : Instr → Command
  | .csumFold seed xs => { cmd := 0x00, seed := seed, bytes := xs }
  | .preScan xs       => { cmd := 0x01, bytes := xs }
  | .hdrParse xs      => { cmd := 0x02, bytes := xs }
  | .send pin         => { cmd := 0x03, bytes := pin }
  | .recv dcap        => { cmd := 0x04, dcap := dcap }
  | .recvTo dcap t    => { cmd := 0x05, dcap := dcap, dur := t }
  | .recvAck          => { cmd := 0x06 }
  | .sendAck pin      => { cmd := 0x07, bytes := pin }

/-- The command of a table word: the first byte is CMD, and the operands, which the table gives no bits, are all zero
or empty. -/
def commandOfTableWord (nbits w : Nat) : Command := { cmd := BitVec.ofNat 8 (w % 2 ^ nbits) }

/-- The instruction the decoder reads from the bits `w` of a table row of `nbits` bits. The block's longest command
has one byte of bits, so a word with a bit set above it spells nothing. -/
def decodeTableWord (nbits w : Nat) : Option Instr :=
  if w % 2 ^ nbits < 256 then
    match decode (commandOfTableWord nbits w) with
    | .ok i => some i
    | .error _ => none
  else none

/-! The assembler text of R114, one command a line. -/

/-- A hexadecimal digit. -/
def hexDigit (n : Nat) : String :=
  match n with
  | 10 => "A" | 11 => "B" | 12 => "C" | 13 => "D" | 14 => "E" | 15 => "F"
  | n => toString n

/-- A byte as `0xNN` (R7, R114). -/
def hexByte (b : Byte) : String := "0x" ++ hexDigit (b.toNat / 16) ++ hexDigit (b.toNat % 16)

/-- The bytes of a sequence, separated by commas. -/
def commaBytes : List Byte → String
  | [] => ""
  | [b] => hexByte b
  | b :: bs => hexByte b ++ ", " ++ commaBytes bs

/-- A byte sequence in square brackets (R114). -/
def bracketed (bs : List Byte) : String := "[" ++ commaBytes bs ++ "]"

/-- A duration with its unit (R114). -/
def Duration.asm (t : Duration) : String :=
  match t.denPred with
  | 0 => toString t.num ++ "ms"
  | d => toString t.num ++ "/" ++ toString (d + 1) ++ "ms"

/-- The line of R114 for an operation. -/
def Instr.asm : Instr → String
  | .csumFold seed xs => "csum.fold " ++ hexByte seed ++ ", " ++ bracketed xs
  | .preScan xs       => "pre.scan " ++ bracketed xs
  | .hdrParse xs      => "hdr.parse " ++ bracketed xs
  | .send pin         => "send " ++ bracketed pin
  | .recv dcap        => "recv " ++ toString dcap
  | .recvTo dcap t    => "recv.to " ++ toString dcap ++ ", " ++ t.asm
  | .recvAck          => "recv.ack"
  | .sendAck pin      => "send.ack " ++ bracketed pin

end Sys2Proof
end

