-- ==== Sys2Proof/Machine/State.lean ====
section
/-! DEFINITION. The state of the block: the registers of R20 (10_state.md), the four byte spaces of R50
(20_memory.md), the operation waiting in a ready-read, and the outside world's side of the two ports, all plain
data; the ways a step can stop; and the state after reset (R30, R290). -/

namespace Sys2Proof.Machine

/-- A byte space (R50): the indices that hold a value, with their bytes, in rising order. An index that is not listed
holds no value (log entry 14). -/
abbrev Memory := List Host.Cell

/-- The one form of a byte space: indices strictly rising. -/
abbrev Memory.wf (m : Memory) : Prop := m.Pairwise (fun a b => a.1 < b.1)

/-- OPSTATE (R20, R21). -/
inductive OpState where
  | idle
  | busy
  deriving DecidableEq, Repr

/-- PST, the FrameParser state (R23). -/
inductive PState where
  | start
  | zero
  | len
  | lcs
  | tfi
  | done
  deriving DecidableEq, Repr

/-- RESULT (R20). -/
inductive ResultCode where
  | ok
  | err
  deriving DecidableEq, Repr

/-- RSTAT, the outcome class of a parser primitive (R26). -/
inductive RStat where
  | none
  | complete
  | pending
  | failed
  deriving DecidableEq, Repr

/-- ERREXP, what an `InvalidByte` error expected (R27). -/
inductive Expected where
  | none
  /-- "expected 0xD5" -/
  | tfiD2H
  /-- "value at least 0x01" -/
  | atLeastOne
  deriving DecidableEq, Repr

/-- The errors of R251 (60_exceptions.md). -/
inductive Err where
  | tooMuchData
  | transportWrite (e : TErr)
  | transportRead (e : TErr)
  | invalidChecksumLength
  | invalidChecksumData
  | invalidByte (b : Byte) (x : Expected)
  | unexpectedEnd
  | timeout
  deriving DecidableEq, Repr

/-- ERRCODE (R252); its numbers are `ErrCode.code`. -/
inductive ErrCode where
  | none
  | tooMuchData
  | transportWrite
  | transportRead
  | invalidChecksumLength
  | invalidChecksumData
  | invalidByte
  | unexpectedEnd
  | timeout
  deriving DecidableEq, Repr

/-- What one transport read returns (R62). -/
inductive ReadResult where
  /-- the bytes the transport offers; a read of `n` bytes takes the first `n` of them (log entry 15) -/
  | bytes (bs : List Byte)
  /-- an opaque failure -/
  | fail (e : TErr)
  deriving DecidableEq, Repr

/-- One iteration of a ready-read as the outside world answers it (R64): what the read returns, and the time it
takes beside POLL_DELAY (log entry 8). -/
structure ReadAttempt where
  result : ReadResult
  took   : Duration := { num := 0 }
  deriving DecidableEq, Repr

/-- What happens on the bus, in the order it happens (R73). -/
inductive BusEvent where
  /-- one `BusWrite` of R61 and what it returned -/
  | write (xs : List Byte) (r : WriteResult)
  /-- one transport read of R62 -/
  | read (a : ReadAttempt)
  /-- the transport reads of a timed ready-read past the answers the outside world drew: at least one, none of them ready,
  the last one not before more than `t` had elapsed (R70, D21; log entry 5) -/
  | unready (t : Duration)
  deriving DecidableEq, Repr

/-- The operation that waits in its blocking ready-read while OPSTATE is BUSY (R21, R66). RECV.TO never waits: its
ready-read always returns (R11, R70). -/
inductive Pending where
  | recv (dcap : Nat)
  | recvAck
  /-- the acknowledgement part; the frame is already written (R215) -/
  | sendAck
  deriving DecidableEq, Repr

/-- Where the reset input lands (R290; log entry 9). -/
inductive ResetPoint where
  /-- between two steps -/
  | between
  /-- within the next one, once the first `n` lasting actions of the operation have been done: its bus write, each of its
  transport reads, and then each byte of its copy into DST, in this order -/
  | within (n : Nat)
  deriving DecidableEq, Repr

/-- The state of the block. -/
structure State where
  /-- OPSTATE -/
  opstate : OpState
  /-- ACC, the running checksum (R22) -/
  acc : Option Byte
  /-- PST -/
  pst : PState
  /-- LREG's bits; the value it holds is `State.lregValue` (R23) -/
  lreg : Byte
  /-- IDX, index of the next window byte (R24) -/
  idx : Nat
  /-- NREAD, number of bytes in the window (R24) -/
  nread : Nat
  /-- RESULT -/
  result : Option ResultCode
  /-- RCOUNT -/
  rcount : Option Byte
  /-- RBYTE -/
  rbyte : Option Byte
  /-- RPOS -/
  rpos : Option Nat
  /-- RSTAT -/
  rstat : RStat
  /-- ERRCODE -/
  errcode : ErrCode
  /-- ERRBYTE -/
  errbyte : Byte
  /-- ERREXP -/
  errexp : Expected
  /-- ERRWRAP -/
  errwrap : Bool
  /-- ERRTOK; `none` is the spec's "holds no value" (R253, R254) -/
  errtok : Option TErr
  /-- PIN, the client's payload (R51) -/
  pin : Memory
  /-- FBUF, the frame being sent (R52) -/
  fbuf : Memory
  /-- WIN, the bytes of one ready-read (R53) -/
  win : Memory
  /-- DST, the client's destination (R54) -/
  dst : Memory
  /-- the operation waiting in its ready-read -/
  pending : Option Pending
  /-- a transport is attached to the bus port (R292) -/
  attached : Bool
  /-- the commands the client will present, in order -/
  port : List Command
  /-- the reset input (R290): where it lands, if it is asserted -/
  resetIn : Option ResetPoint
  /-- the transport's answers to the reads to come, in order -/
  reads : List ReadAttempt
  /-- the transport's answers to the bus writes to come, in order -/
  writeResults : List WriteResult
  /-- how many bus writes were made: the argument of the free value `Config.freeWriteResult` -/
  writes : Nat
  /-- what happened on the bus, oldest first -/
  trace : List BusEvent
  deriving DecidableEq, Repr

/-- The registers the client reads (R20). -/
inductive ClientReg where
  | result
  | rcount
  | rbyte
  | rpos
  | rstat
  | errcode
  | errbyte
  | errexp
  | errwrap
  | errtok
  deriving DecidableEq, Repr

/-- What the client reads from a register: a number, or the transport's token. -/
inductive ClientValue where
  | num (n : Nat)
  | tok (e : TErr)
  deriving DecidableEq, Repr

/-- The faults. Only the client's reads raise them; no operation and no step does (R258). All are safe: the model
stops where the spec gives no value. -/
inductive Fault where
  /-- raised by `clientReadReg`: the register holds no value (R30: "a model must treat a read of it before an operation
  writes it as a fault"). Safe. -/
  | noValue (r : ClientReg)
  /-- raised by `clientReadDst`: no value is known at this index of DST (R50, R54; log entry 14). Safe. -/
  | noByte (i : Nat)
  /-- raised by both: an operation is in progress (R20 "after an operation ends", R307). Safe. -/
  | readWhileBusy
  deriving DecidableEq, Repr

/-- The refusals: the command has no step (R11). All are safe. -/
inductive Refusal where
  /-- raised by `exec` for an instruction without a meaning; no instruction of this model is in that case. Safe. -/
  | notModelled (mnemonic : String)
  /-- raised by every meaning: "a command presented while OPSTATE = BUSY is refused" (R21). Safe. -/
  | commandWhileBusy
  /-- raised by `step`: the command spells no operation (R112, R113). Safe. -/
  | reservedCommand (r : DecodeReject)
  /-- raised by the operations that touch the bus: no transport is attached, and the spec says only that one must be
  (R292; log entry 11). Safe. -/
  | noTransport
  deriving DecidableEq, Repr

/-- The state right after reset: the registers as R30 gives them, FBUF and WIN without a value (R290), the block idle
with nothing in progress (R291). The client's spaces, the ports and LREG's raw bits are the model's choice (log
entries 2, 4, 5, 6, 10, 11, 14, 16). -/
def State.reset : State where
  opstate := .idle
  acc := none
  pst := .start
  lreg := 0#8
  idx := 0
  nread := 0
  result := none
  rcount := none
  rbyte := none
  rpos := none
  rstat := .none
  errcode := .none
  errbyte := 0#8
  errexp := .none
  errwrap := false
  errtok := none
  pin := []
  fbuf := []
  win := []
  dst := []
  pending := none
  attached := true
  port := []
  resetIn := none
  reads := []
  writeResults := []
  writes := 0
  trace := []

end Sys2Proof.Machine
end

