-- ==== Sys2Proof/Machine/Flags.lean ====
section
/-! DEFINITION. What stands in the place of flags: the block has no condition codes (R26), but it computes checksums
(44_checksum.md), a readiness bit (R65) and the numeric codes of its status registers (R20, R23, R26, R27, R252). -/

namespace Sys2Proof.Machine

/-- `neg8(a)` = (256 - a) mod 256 (R8). -/
def neg8 (a : Byte) : Byte := 0#8 - a

/-- The checksum fold `sum8(s, xs)` (R230): each step is one step of ACC (R231), the carry discarded. -/
def sum8 (s : Byte) : List Byte → Byte
  | [] => s
  | x :: xs => sum8 (s + x) xs

/-- A chunk is ready when it holds at least one byte and bit 0 of its first byte is 1 (R65). -/
def ready : List Byte → Bool
  | [] => false
  | b :: _ => b.getLsbD 0

/-- OPSTATE's encoding (R20). -/
def OpState.code : OpState → BitVec 1
  | .idle => 0
  | .busy => 1

/-- PST's encoding (R23). -/
def PState.code : PState → BitVec 3
  | .start => 0
  | .zero  => 1
  | .len   => 2
  | .lcs   => 3
  | .tfi   => 4
  | .done  => 5

/-- RESULT's encoding (R20). -/
def ResultCode.code : ResultCode → BitVec 1
  | .ok  => 0
  | .err => 1

/-- RSTAT's encoding (R26). -/
def RStat.code : RStat → BitVec 2
  | .none     => 0
  | .complete => 1
  | .pending  => 2
  | .failed   => 3

/-- ERREXP's encoding (R27). -/
def Expected.code : Expected → BitVec 2
  | .none       => 0
  | .tfiD2H     => 1
  | .atLeastOne => 2

/-- ERRCODE's encoding (R252). -/
def ErrCode.code : ErrCode → BitVec 4
  | .none                  => 0
  | .tooMuchData           => 1
  | .transportWrite        => 2
  | .transportRead         => 3
  | .invalidChecksumLength => 4
  | .invalidChecksumData   => 5
  | .invalidByte           => 6
  | .unexpectedEnd         => 7
  | .timeout               => 8

/-- The ERRCODE of an error (R252). -/
def Err.errcode : Err → ErrCode
  | .tooMuchData           => .tooMuchData
  | .transportWrite _      => .transportWrite
  | .transportRead _       => .transportRead
  | .invalidChecksumLength => .invalidChecksumLength
  | .invalidChecksumData   => .invalidChecksumData
  | .invalidByte _ _       => .invalidByte
  | .unexpectedEnd         => .unexpectedEnd
  | .timeout               => .timeout

/-- ERRBYTE for an error (R253). -/
def Err.byte : Err → Byte
  | .invalidByte b _ => b
  | _ => 0#8

/-- ERREXP for an error (R253). -/
def Err.expected : Err → Expected
  | .invalidByte _ x => x
  | _ => .none

/-- ERRTOK for an error (R253). -/
def Err.token : Err → Option TErr
  | .transportWrite e => some e
  | .transportRead e => some e
  | _ => none

end Sys2Proof.Machine
end

