-- ==== Sys2Proof/Machine/Operands.lean ====
section
/-! DEFINITION. The operand forms and the byte spaces they live in: indexed bytes (R50), a sequence laid into a space
from index 0, the content of a space, and the client's PIN operand (R51, R113). The block has no addressing modes. -/

namespace Sys2Proof.Machine

/-- The byte at an index, or no value. -/
def Memory.read : Memory → Nat → Option Byte
  | [], _ => none
  | (k, v) :: m, i => if k = i then some v else Memory.read m i

/-- Write one byte, keeping the indices rising. -/
def Memory.write : Memory → Nat → Byte → Memory
  | [], i, b => [(i, b)]
  | (k, v) :: m, i, b =>
    if i < k then (i, b) :: (k, v) :: m
    else if i = k then (i, b) :: m
    else (k, v) :: Memory.write m i b

/-- Write a sequence from an index on, in order. -/
def Memory.writeBytes (m : Memory) (i : Nat) : List Byte → Memory
  | [] => m
  | b :: bs => Memory.writeBytes (m.write i b) (i + 1) bs

/-- A sequence laid out from an index on. -/
def Memory.ofBytesFrom (i : Nat) : List Byte → Memory
  | [] => []
  | b :: bs => (i, b) :: Memory.ofBytesFrom (i + 1) bs

/-- The space that holds exactly the bytes of a sequence, from index 0 (R9, R52, R53). -/
def Memory.ofBytes (bs : List Byte) : Memory := Memory.ofBytesFrom 0 bs

/-- A space whose indices below `m` are those of `new` and the others those of `old`: what a copy that goes up from index
0 has done after `m` bytes (R187). -/
def Memory.splice (m : Nat) (new old : Memory) : Memory :=
  new.filter (fun c => decide (c.1 < m)) ++ old.filter (fun c => decide (m ≤ c.1))

/-- The bytes a space holds, in index order. -/
def Memory.contents (m : Memory) : List Byte := m.map Prod.snd

/-- Presenting SEND or SEND.ACK, the client gives its PIN space the operand's bytes (R50: PIN is written by "the client
only"; R113; log entry 13). -/
def State.presentPin (pin : List Byte) (s : State) : State :=
  { s with pin := Memory.ofBytes pin }

/-- LREG as the spec holds it: a value in LCS, TFI and DONE, and none in START, ZERO and LEN (R23). -/
def State.lregValue (s : State) : Option Byte :=
  match s.pst with
  | .start | .zero | .len => none
  | .lcs | .tfi | .done => some s.lreg

/-- The bits of a client-readable register, if it holds a value (R20, R30). -/
def State.clientReg (s : State) : ClientReg → Option ClientValue
  | .result  => s.result.map fun r => .num r.code.toNat
  | .rcount  => s.rcount.map fun b => .num b.toNat
  | .rbyte   => s.rbyte.map fun b => .num b.toNat
  | .rpos    => s.rpos.map .num
  | .rstat   => some (.num s.rstat.code.toNat)
  | .errcode => some (.num s.errcode.code.toNat)
  | .errbyte => some (.num s.errbyte.toNat)
  | .errexp  => some (.num s.errexp.code.toNat)
  | .errwrap => some (.num s.errwrap.toNat)
  | .errtok  => s.errtok.map .tok

/-- The client reads a result register: after an operation has ended (R20, R307), and only a value it holds. A read of a
register that holds no value is a fault: the spec's own words (R30; I17, "`fault` on read before write"). -/
def clientReadReg (r : ClientReg) (s : State) : Except Fault ClientValue :=
  match s.opstate with
  | .busy => .error .readWhileBusy
  | .idle =>
    match s.clientReg r with
    | some v => .ok v
    | none => .error (.noValue r)

/-- The client reads a byte of DST, after an operation has ended (R50, R307). -/
def clientReadDst (i : Nat) (s : State) : Except Fault Byte :=
  match s.opstate with
  | .busy => .error .readWhileBusy
  | .idle =>
    match s.dst.read i with
    | some b => .ok b
    | none => .error (.noByte i)

end Sys2Proof.Machine
end

