-- ==== Sys2Proof/Machine/Ops.lean ====
section
/-! DEFINITION. The operations every meaning shares: accepting a command (R21), ending with an error or with success
(R253, R254, R255), the bus write (R61), the ready-read agent in both forms (R64 to R71), and reset (R290). -/

namespace Sys2Proof.Machine

/-- What a meaning answers. -/
abbrev Answer := Host.Outcome State Fault Refusal

/-! Accepting a command. -/

/-- OPSTATE is BUSY from the acceptance of a command on (R21). -/
def State.begin (s : State) : State := { s with opstate := .busy }

/-- The command port: a command is accepted only in IDLE, and the block is BUSY from then on; in BUSY it is refused
(R21). -/
def State.accept (s : State) (k : State → Answer) : Answer :=
  match s.opstate with
  | .idle => k s.begin
  | .busy => .refused .commandWhileBusy

/-- A part of an operation that touches the bus needs a transport (R292; log entry 11). -/
def State.withTransport (s : State) (k : State → Answer) : Answer :=
  if s.attached then k s else .refused .noTransport

/-! Ending an operation: the block's trap entry (raise) and its ordinary return (succeed). There is no return from a
trap (R256). -/

/-- Which operation raises: R253 tells HDR.PARSE and RECV.TO from the rest. -/
inductive Raiser where
  | hdrParse
  | recvTo
  | other
  deriving DecidableEq, Repr

/-- RSTAT on an error (R253). -/
def Raiser.rstat : Raiser → RStat
  | .hdrParse => .failed
  | _ => .none

/-- ERRWRAP on an error (R253): 1 when the operation is RECV.TO and the error is not Timeout. -/
def Raiser.wraps : Raiser → Err → Bool
  | .recvTo, .timeout => false
  | .recvTo, _ => true
  | _, _ => false

/-- Raise an error (R253): the error record is written, the operation is over and the block IDLE (R21, R255). No state
is saved, no mode changes, no vector is taken. -/
def State.raise (who : Raiser) (e : Err) (s : State) : State :=
  { s with
    opstate := .idle
    pending := none
    result  := some .err
    errcode := e.errcode
    errbyte := e.byte
    errexp  := e.expected
    errtok  := e.token
    errwrap := who.wraps e
    rstat   := who.rstat }

/-- Return with success (R254), RSTAT as R26 says; the operation is over and the block IDLE (R21). -/
def State.succeed (r : RStat) (s : State) : State :=
  { s with
    opstate := .idle
    pending := none
    result  := some .ok
    errcode := .none
    errbyte := 0#8
    errexp  := .none
    errtok  := none
    errwrap := false
    rstat   := r }

/-! Small register writes. -/

/-- ACC after a fold (R231). -/
def State.setAcc (b : Byte) (s : State) : State := { s with acc := some b }

/-- RBYTE. -/
def State.setRbyte (b : Byte) (s : State) : State := { s with rbyte := some b }

/-- RPOS. -/
def State.setRpos (n : Nat) (s : State) : State := { s with rpos := some n }

/-- PST and LREG after the parser ran. -/
def State.setParser (p : PState) (l : Byte) (s : State) : State := { s with pst := p, lreg := l }

/-- IDX. -/
def State.setIdx (n : Nat) (s : State) : State := { s with idx := n }

/-- A ready-read's window: `NREAD <- m`, `WIN[0..m) <- ws`, and no value from `m` on (R53). -/
def State.setWindow (ws : List Byte) (s : State) : State :=
  { s with nread := ws.length, win := Memory.ofBytes ws }

/-- FBUF after a build: the frame from index 0, and no value after it (R52). -/
def State.setFrame (fr : List Byte) (s : State) : State := { s with fbuf := Memory.ofBytes fr }

/-- The copy of a payload into DST and RCOUNT (R187, R188). -/
def State.deliver (payload : List Byte) (s : State) : State :=
  { s with dst := s.dst.writeBytes 0 payload, rcount := some (BitVec.ofNat 8 payload.length) }

/-! The bus port. -/

/-- What the next bus write will return: the outside world's draw, or the free value past it (R61, I5; log entry 6). -/
def State.drawWrite (s : State) : WriteResult :=
  match s.writeResults with
  | [] => Config.freeWriteResult s.writes
  | r :: _ => r

/-- One `BusWrite(xs)` (R61) as the bus sees it; what it returns is `drawWrite` of the state before. -/
def State.busWrite (xs : List Byte) (s : State) : State :=
  { s with
    writeResults := s.writeResults.tail
    writes := s.writes + 1
    trace := s.trace ++ [.write xs s.drawWrite] }

/-- The bytes one transport read of `n` bytes returns (R62). -/
def chunk (n : Nat) (offered : List Byte) : List Byte := offered.take n

end Sys2Proof.Machine

/-- A duration as the number of milliseconds it is. -/
def Sys2Proof.Duration.ms (t : Sys2Proof.Duration) : ℚ≥0 := t.num / (t.denPred + 1)

namespace Sys2Proof.Machine

/-- The time of one iteration: the sleep of POLL_DELAY and the read (R64). -/
def ReadAttempt.time (a : ReadAttempt) : ℚ≥0 := Config.pollDelay.ms + a.took.ms

/-- How the blocking ready-read ends (R64). -/
inductive ReadyEnd where
  | window (ws : List Byte)
  | terr (e : TErr)
  deriving DecidableEq, Repr

/-- How the timed ready-read ends (R68): as the blocking one does, or with `Timeout`. -/
inductive TimedEnd where
  | ready (r : ReadyEnd)
  /-- an attempt that the outside world drew was not ready and past the deadline -/
  | late
  /-- the attempts it drew were neither ready nor past the deadline, and of the later ones none was ready (R70) -/
  | silent
  deriving DecidableEq, Repr

/-- What a ready-read has done so far: its answer, the drawn attempts it made, and those the outside world has left. -/
structure Polled (α : Type) where
  answer : α
  made   : List ReadAttempt
  left   : List ReadAttempt

/-- One more attempt was made before. -/
def Polled.after {α : Type} (a : ReadAttempt) (p : Polled α) : Polled α := { p with made := a :: p.made }

/-- `ReadyRead(n)` (R64 to R67): read until a chunk is ready or a read fails. Where the outside world has drawn no further
answer, no attempt is ready and the ready-read has not returned: `none` (R66; log entry 5). -/
def readyRead (n : Nat) : List ReadAttempt → Polled (Option ReadyEnd)
  | [] => ⟨none, [], []⟩
  | a :: as =>
    match a.result with
    | .fail e => ⟨some (.terr e), [a], as⟩
    | .bytes bs =>
      if ready (chunk n bs) then ⟨some (.window (chunk n bs)), [a], as⟩
      else (readyRead n as).after a

/-- `ReadyReadTimeout(n, t)` (R68 to R71): the same with a deadline, checked only after an attempt that was not ready,
and passed only when the elapsed time strictly exceeds `t`. Where the outside world has drawn no further answer, no later
attempt is ready and the deadline passes: the timed ready-read always returns (R11, R70, D21; log entry 5). `el` is the
time already waited. -/
def readyReadTimeout (n : Nat) (t el : ℚ≥0) : List ReadAttempt → Polled TimedEnd
  | [] => ⟨.silent, [], []⟩
  | a :: as =>
    match a.result with
    | .fail e => ⟨.ready (.terr e), [a], as⟩
    | .bytes bs =>
      if ready (chunk n bs) then ⟨.ready (.window (chunk n bs)), [a], as⟩
      else if t < el + a.time then ⟨.late, [a], as⟩
      else (readyReadTimeout n t (el + a.time) as).after a

/-- The attempts a ready-read made, on the bus. -/
def State.polled (made left : List ReadAttempt) (s : State) : State :=
  { s with reads := left, trace := s.trace ++ made.map .read }

/-- The transport reads past the drawn answers, on the bus. -/
def State.pastDeadline (t : Duration) (s : State) : State := { s with trace := s.trace ++ [.unready t] }

/-- The operation stays in its ready-read: OPSTATE stays BUSY (R21, R66). -/
def State.wait (p : Pending) (s : State) : State := { s with opstate := .busy, pending := some p }

/-! Reset. -/

/-- The reset input (R290): the registers as R30 says, FBUF and WIN without a value, any operation in progress ended.
DST and PIN are the client's and are not changed, a bus write already accepted stands, and what the outside world has
ready is not touched (log entry 10). LREG holds no value because PST is START. -/
def State.assertReset (s : State) : State :=
  { State.reset with
    pin := s.pin
    dst := s.dst
    attached := s.attached
    port := s.port
    reads := s.reads
    writeResults := s.writeResults
    writes := s.writes
    trace := s.trace }

end Sys2Proof.Machine
end

