-- ==== Sys2Proof/Machine/Checksum.lean ====
section
/-! DEFINITION. CSUM.FOLD (44_checksum.md). -/

namespace Sys2Proof.Machine

/-- CSUM.FOLD (R233): the fold in ACC, its result in RBYTE. -/
def execCsumFold (seed : Byte) (xs : List Byte) (s : State) : Answer :=
  s.accept fun s => .next (((s.setAcc (sum8 seed xs)).setRbyte (sum8 seed xs)).succeed .none)

end Sys2Proof.Machine
end

