-- ==== Sys2Proof/Machine/Parser.lean ====
section
/-! DEFINITION. The FrameParser state machine and its two primitives, PRE.SCAN and HDR.PARSE (41_parser.md). -/

namespace Sys2Proof.Machine

/-- The two modes the parser runs in (41_parser.md, opening). -/
inductive Mode where
  | full
  | preambleOnly
  deriving DecidableEq, Repr

/-- The parser's registers: PST and LREG. -/
structure Parser where
  pst  : PState
  lreg : Byte
  deriving DecidableEq, Repr

/-- The results of one parser step (41_parser.md, opening); `terminal` says that DONE takes no byte (R161). -/
inductive ParseStep where
  | next (p : Parser)
  | complete
  | fail (e : Err)
  | terminal
  deriving DecidableEq, Repr

/-- One parser step on one byte (R151 to R161), under a reading of C1. -/
def parserStep (z : ZeroInZeroFound) (m : Mode) (p : Parser) (b : Byte) : ParseStep :=
  match p.pst with
  | .start =>
    if b = Config.pre0 then .next { p with pst := .zero }                 -- R151
    else .next { p with pst := .start }                                   -- R152
  | .zero =>
    if b = Config.pre1 then
      match m with                                                        -- R153
      | .full => .next { p with pst := .len }
      | .preambleOnly => .complete
    else if b = Config.pre0 then
      match z with                                                        -- R154
      | .stay => .next { p with pst := .zero }
      | .restart => .next { p with pst := .start }
    else .next { p with pst := .start }                                   -- R155
  | .len => .next ⟨.lcs, b⟩                                               -- R156
  | .lcs =>
    if p.lreg + b = 0#8 then .next { p with pst := .tfi }                   -- R157
    else .fail .invalidChecksumLength                                     -- R158
  | .tfi =>
    if b = Config.tfiD2H then .next { p with pst := .done }               -- R159
    else .fail (.invalidByte b .tfiD2H)                                   -- R160
  | .done => .terminal                                                    -- R161

/-- How a run of the parser over a sequence ends. -/
inductive FeedEnd where
  /-- preamble-only: `Complete`; full: DONE -/
  | complete
  | failed (e : Err)
  /-- the sequence ended first -/
  | ended
  deriving DecidableEq, Repr

/-- A run of the parser: how it ended, the registers it left, the bytes it consumed. -/
structure Fed where
  how      : FeedEnd
  parser   : Parser
  consumed : Nat
  deriving DecidableEq, Repr

/-- Feed a sequence byte by byte until the parser completes, fails or runs out of bytes (R164, R165, R182, R211). `n`
bytes were consumed before. A failing step leaves PST as it was (R158, R160), and so does `Complete` (R153). -/
def feed (z : ZeroInZeroFound) (m : Mode) (p : Parser) (n : Nat) : List Byte → Fed
  | [] => ⟨if p.pst = .done then .complete else .ended, p, n⟩
  | b :: bs =>
    match parserStep z m p b with
    | .next p' => feed z m p' (n + 1) bs
    | .complete => ⟨.complete, p, n + 1⟩
    | .fail e => ⟨.failed e, p, n + 1⟩
    | .terminal => ⟨.complete, p, n⟩

/-- The run every operation makes: from START (R150), under the block's reading of C1 (R154, D5). -/
def runParser (m : Mode) (lreg : Byte) (xs : List Byte) : Fed :=
  feed Config.zeroInZeroFound m ⟨.start, lreg⟩ 0 xs

/-- The registers a run leaves: PST and LREG. -/
def State.setFed (f : Fed) (s : State) : State := s.setParser f.parser.pst f.parser.lreg

/-- What PRE.SCAN does (R164): never an error. The preamble sub-machine cannot fail (R163 c), so the pattern of a failed
run stands with the end of the input. -/
def State.scanSequence (xs : List Byte) (s : State) : State :=
  let f := runParser .preambleOnly s.lreg xs
  let s := (s.setFed f).setRpos f.consumed
  match f.how with
  | .complete => s.succeed .complete
  | .failed _ | .ended => s.succeed .pending

/-- What HDR.PARSE does (R165): COMPLETE with the length in RBYTE, FAILED with the parser's error, or PENDING without an
error (D28). -/
def State.parseSequence (xs : List Byte) (s : State) : State :=
  let f := runParser .full s.lreg xs
  let s := (s.setFed f).setRpos f.consumed
  match f.how with
  | .complete => (s.setRbyte s.lreg).succeed .complete
  | .failed e => s.raise .hdrParse e
  | .ended => s.succeed .pending

/-- PRE.SCAN (R164). -/
def execPreScan (xs : List Byte) (s : State) : Answer :=
  s.accept fun s => .next (s.scanSequence xs)

/-- HDR.PARSE (R165). -/
def execHdrParse (xs : List Byte) (s : State) : Answer :=
  s.accept fun s => .next (s.parseSequence xs)

end Sys2Proof.Machine
end

