-- ==== Sys2Proof/Machine/Send.lean ====
section
/-! DEFINITION. SEND: the host-to-device frame and its one bus write (40_send.md, R90 to R94 of 30_encoding.md). -/

namespace Sys2Proof.Machine

/-- The length byte of a payload (R91, R133). -/
def lengthByte (p : List Byte) : Byte := BitVec.ofNat 8 (p.length + 1)

/-- The frame of a payload (R90): preamble, LEN, LCS, TFI, payload, DCS (R132 to R137). -/
def frame (p : List Byte) : List Byte :=
  [Config.pre0, Config.pre1, lengthByte p, neg8 (lengthByte p), Config.tfiH2D] ++ p ++ [neg8 (sum8 Config.tfiH2D p)]

/-- The payload is too long (R131). -/
def tooLong (p : List Byte) : Bool := Config.maxPayload < p.length

/-- Build the frame of PIN in FBUF, its checksum in ACC (R132 to R137); the one read of PIN (R136). -/
def State.buildFrame (s : State) : State :=
  (s.setAcc (sum8 Config.tfiH2D s.pin.contents)).setFrame (frame s.pin.contents)

/-- Build the frame and hand FBUF to the bus in one write (R138). -/
def State.sendFrame (s : State) : State :=
  s.buildFrame.busWrite s.buildFrame.fbuf.contents

/-- Send the frame, then go on with `k` where the transport accepted it; a write that fails is raised and not tried
again (R139, R140). -/
def State.sendThen (k : State → State) (s : State) : State :=
  match s.drawWrite with
  | .ok => k s.sendFrame
  | .terr e => s.sendFrame.raise .other (.transportWrite e)

/-- The body of SEND, followed by `k`: the length check comes first and touches neither FBUF nor the bus (R131). -/
def State.sendBody (pin : List Byte) (k : State → State) (s : State) : Answer :=
  let s := s.presentPin pin
  if tooLong s.pin.contents then .next (s.raise .other .tooMuchData)
  else s.withTransport fun s => .next (s.sendThen k)

/-- SEND (R130). -/
def execSend (pin : List Byte) (s : State) : Answer :=
  s.accept fun s => s.sendBody pin fun s => s.succeed .none

end Sys2Proof.Machine
end

