-- ==== Sys2Proof/Machine/Ack.lean ====
section
/-! DEFINITION. RECV.ACK and SEND.ACK (43_ack.md). -/

namespace Sys2Proof.Machine

/-- Scan a window for the first 00 FF pair (R211); none is UnexpectedEnd (R212). The preamble sub-machine cannot fail
(R163 c). -/
def State.scanWindow (ws : List Byte) (s : State) : State :=
  let s := s.setWindow ws
  let f := runParser .preambleOnly s.lreg s.win.contents
  let s := (s.setFed f).setIdx f.consumed
  match f.how with
  | .complete => s.succeed .none
  | .failed _ | .ended => s.raise .other .unexpectedEnd

/-- RECV.ACK from its ready-read on (R210, R211); `p` is the operation that waits, RECV.ACK or SEND.ACK. -/
def State.ackFrom (p : Pending) (s : State) : State :=
  let q := readyRead Config.window s.reads
  let s := s.polled q.made q.left
  match q.answer with
  | none => s.wait p
  | some (.terr e) => s.raise .other (.transportRead e)
  | some (.window ws) => s.scanWindow ws

/-- RECV.ACK (R210). -/
def execRecvAck (s : State) : Answer :=
  s.accept fun s => s.withTransport fun s => .next (s.ackFrom .recvAck)

/-- SEND.ACK (R215): the body of SEND, and when it succeeds the body of RECV.ACK, as one operation. An error of either
part stands as it is (R216), and nothing is undone (R217). -/
def execSendAck (pin : List Byte) (s : State) : Answer :=
  s.accept fun s => s.sendBody pin fun s => s.ackFrom .sendAck

end Sys2Proof.Machine
end

