-- ==== Sys2Proof/Machine/Receive.lean ====
section
/-! DEFINITION. RECV and RECV.TO: one ready window, decoded, checked in order and copied (42_receive.md). -/

namespace Sys2Proof.Machine

/-- The body of a frame: the `L` bytes after the TFI (R184). -/
def bodyOf (ws : List Byte) (at' l : Nat) : List Byte := (ws.drop at').take l

/-- The checks and the copy after DONE (R184 to R188), with IDX after the TFI and `L` in LREG. -/
def State.checkBody (who : Raiser) (dcap : Nat) (s : State) : State :=
  let l := s.lreg.toNat
  let body := bodyOf s.win.contents s.idx l
  if s.nread - s.idx < l then s.raise who .unexpectedEnd                          -- R184
  else if l = 0 then s.raise who (.invalidByte 0x00#8 .atLeastOne)                  -- R185
  else
    let s := s.setAcc (sum8 Config.tfiD2H body)                                   -- R186
    if sum8 Config.tfiD2H body ≠ 0#8 then s.raise who .invalidChecksumData
    else (s.deliver (body.take (min (l - 1) dcap))).succeed .none                 -- R187, R188

/-- A window is decoded from its first byte, the status byte (R182), until DONE, a failure or its end (R183). -/
def State.decodeWindow (who : Raiser) (dcap : Nat) (ws : List Byte) (s : State) : State :=
  let s := s.setWindow ws
  let f := runParser .full s.lreg s.win.contents
  let s := (s.setFed f).setIdx f.consumed
  match f.how with
  | .failed e => s.raise who e
  | .ended => s.raise who .unexpectedEnd
  | .complete => s.checkBody who dcap

/-- What a receive does with the end of its ready-read (R180, R181). -/
def State.received (who : Raiser) (dcap : Nat) (r : ReadyEnd) (s : State) : State :=
  match r with
  | .terr e => s.raise who (.transportRead e)
  | .window ws => s.decodeWindow who dcap ws

/-- RECV from its ready-read on (R181): one ready-read, which may never return (R66). -/
def State.recvFrom (dcap : Nat) (s : State) : State :=
  let p := readyRead Config.window s.reads
  let s := s.polled p.made p.left
  match p.answer with
  | none => s.wait (.recv dcap)
  | some r => s.received .other dcap r

/-- RECV.TO from its ready-read on (R191 to R193); the ready-read always returns (R11). -/
def State.recvToFrom (dcap : Nat) (t : Duration) (s : State) : State :=
  let p := readyReadTimeout Config.window t.ms 0 s.reads
  let s := s.polled p.made p.left
  match p.answer with
  | .ready r => s.received .recvTo dcap r
  | .late => s.raise .recvTo .timeout
  | .silent => (s.pastDeadline t).raise .recvTo .timeout

/-- RECV (R180). -/
def execRecv (dcap : Nat) (s : State) : Answer :=
  s.accept fun s => s.withTransport fun s => .next (s.recvFrom dcap)

/-- RECV.TO (R191). -/
def execRecvTo (dcap : Nat) (t : Duration) (s : State) : Answer :=
  s.accept fun s => s.withTransport fun s => .next (s.recvToFrom dcap t)

end Sys2Proof.Machine
end

