-- ==== Sys2Proof/Machine/Control.lean ====
section
/-! DEFINITION. What a step does when no command is taken: going on with the operation in progress (R21, R66); breaking an
operation off in the middle of it (R290); and where a table word's command is placed. -/

namespace Sys2Proof.Machine

/-- Go on with the ready-read in progress. With no further answer of the transport it waits on (R66). A BUSY block with
nothing in progress does not arise (`State.Sequenced`); it would stay as it is. -/
def State.resume (s : State) : State :=
  match s.pending with
  | none => s
  | some (.recv dcap) => s.recvFrom dcap
  | some .recvAck => s.ackFrom .recvAck
  | some .sendAck => s.ackFrom .sendAck

/-- How many bus writes a sequence of bus events holds. -/
def writesIn : List BusEvent → Nat
  | [] => 0
  | .write _ _ :: es => writesIn es + 1
  | .read _ :: es => writesIn es
  | .unready _ :: es => writesIn es

/-- How many drawn reads a sequence of bus events holds. -/
def readsIn : List BusEvent → Nat
  | [] => 0
  | .read _ :: es => readsIn es + 1
  | .write _ _ :: es => readsIn es
  | .unready _ :: es => readsIn es

/-- The reset input is released. -/
def State.release (s : State) : State := { s with resetIn := none }

/-- The operation that leads from `s` to `t`, broken off after its first `n` lasting actions: the bus events it makes, in
their order (R73), then the bytes it copies into DST, from index 0 up (R187). The command has been taken, with the PIN
the client gave. What else the operation would have written, reset writes (R290; log entry 9). -/
def State.brokenOff (n : Nat) (s t : State) : State :=
  let events := t.trace.drop s.trace.length
  let made := events.take n
  { s with
    port := t.port
    pin := t.pin
    trace := s.trace ++ made
    reads := s.reads.drop (readsIn made)
    writeResults := s.writeResults.drop (writesIn made)
    writes := s.writes + writesIn made
    dst := Memory.splice (n - events.length) t.dst s.dst }

/-- The command port hands the block its next command (R110); the client's later commands stay. -/
def State.takeCommand (rest : List Command) (s : State) : State := { s with port := rest }

/-- Present a command as the client's next, to a block that can accept it: IDLE, with no reset asserted. -/
def State.present (c : Command) (s : State) : State :=
  { s with opstate := .idle, pending := none, resetIn := none, port := c :: s.port }

end Sys2Proof.Machine
end

