-- ==== Sys2Proof/Machine/Dispatch.lean ====
section
/-! DEFINITION. One arm per operation. -/

namespace Sys2Proof.Machine

def exec (i : Instr) (s : State) : Host.Outcome State Fault Refusal :=
  match i with
  | .csumFold seed xs => Sys2Proof.Machine.execCsumFold seed xs s
  | .preScan xs => Sys2Proof.Machine.execPreScan xs s
  | .hdrParse xs => Sys2Proof.Machine.execHdrParse xs s
  | .send pin => Sys2Proof.Machine.execSend pin s
  | .recv dcap => Sys2Proof.Machine.execRecv dcap s
  | .recvTo dcap t => Sys2Proof.Machine.execRecvTo dcap t s
  | .recvAck => Sys2Proof.Machine.execRecvAck s
  | .sendAck pin => Sys2Proof.Machine.execSendAck pin s

end Sys2Proof.Machine
end

