-- ==== Sys2Proof/Machine/Step.lean ====
section
/-! DEFINITION. One step of the block: the operation in progress (R21, R66), or the client's next command (R110, R112), and
the reset input, which ends either (R290). There is no program counter and no fetch (R25): the command port takes its place. -/

namespace Sys2Proof.Machine

/-- One step where no reset is asserted. With no command presented the block stays idle (R291; log entry 17). The client
presents its next command only to an idle block (R307; log entry 1). -/
def State.advance (s : State) : Answer :=
  match s.opstate with
  | .busy => .next s.resume
  | .idle =>
    match s.port with
    | [] => .next s
    | c :: rest =>
      match decode c with
      | .error r => .refused (.reservedCommand r)
      | .ok i => exec i (s.takeCommand rest)

/-- What stands when the reset input lands (R290): the state as it is, or what the operation of this step has done before
reset ends it. A refused command has done nothing. -/
def State.atReset (r : ResetPoint) (s : State) : State :=
  match r with
  | .between => s
  | .within n =>
    match s.release.advance with
    | .next t => s.brokenOff n t
    | .fault _ | .refused _ => s

/-- One step. The reset input ends whatever the block was doing (R290). -/
def step (s : State) : Host.Outcome State Fault Refusal :=
  match s.resetIn with
  | some r => .next (s.atReset r).assertReset
  | none => s.advance

/-- The state in which the client presents the command of a table word next (log entry 2). -/
def State.withFetchWord (s : State) (nbits w : Nat) : State := s.present (commandOfTableWord nbits w)

end Sys2Proof.Machine
end

