-- ==== Sys2Proof/Safety.lean ====
section
/-! DEFINITION. What the claims call a good state, a frame on the bus and a safe run, and what the client can see. -/

namespace Sys2Proof.Machine

/-- A 00 FF pair of a sequence, by the index of its 0xFF (R163 b). -/
def PairAt (xs : List Byte) (k : Nat) : Prop := 1 ≤ k ∧ xs[k - 1]? = some 0x00#8 ∧ xs[k]? = some 0xFF#8

/-- The first 00 FF pair ends at index `k` (R163 b). -/
def FirstPair (xs : List Byte) (k : Nat) : Prop := PairAt xs k ∧ ∀ j, j < k → ¬ PairAt xs j

/-- There is no 00 FF pair. -/
def NoPair (xs : List Byte) : Prop := ∀ j, ¬ PairAt xs j

/-- The parser state after a sequence without a pair, from `st` (R151, R152, R154, R155): ZERO after a 0x00, START after
any other byte. -/
def preambleState (st : PState) (xs : List Byte) : PState :=
  match xs.getLast? with
  | none => st
  | some b => if b = 0x00#8 then .zero else .start

/-- A read attempt whose chunk is not ready (R65); a chunk of zero bytes is not ready (D13). -/
def ReadAttempt.NotReady (a : ReadAttempt) : Prop := ∃ bs, a.result = .bytes bs ∧ ready bs = false

/-- A read attempt that ends a ready-read (R64): it fails, or its chunk, at most 32 bytes, is ready. -/
inductive ReadAttempt.Answers : ReadAttempt → ReadyEnd → Prop where
  | fail (e : TErr) (took : Duration) : Answers ⟨.fail e, took⟩ (.terr e)
  | ready (bs : List Byte) (took : Duration) (h : Machine.ready bs = true) : Answers ⟨.bytes bs, took⟩ (.window (bs.take 32))

/-- The time in milliseconds a sequence of read attempts takes, each with its POLL_DELAY (R64). -/
def waitTime : List ReadAttempt → ℚ≥0
  | [] => 0
  | a :: as => (Config.pollDelay.ms + a.took.ms) + waitTime as

/-- A host-to-device frame by the relations of R90 to R94 alone: preamble, length byte, length checksum, TFI, payload,
data checksum. -/
def HostFrame (xs : List Byte) : Prop :=
  ∃ (l c d : Byte) (p : List Byte),
    xs = [0x00#8, 0xFF#8, l, c, 0xD4#8] ++ p ++ [d] ∧
    l.toNat = p.length + 1 ∧ l + c = 0#8 ∧ sum8 0xD4#8 (p ++ [d]) = 0#8

/-- A bus write carries a frame. -/
def BusEvent.Good : BusEvent → Prop
  | .write xs _ => HostFrame xs
  | .read _ => True
  | .unready _ => True

/-- OPSTATE is BUSY exactly while an operation waits in its blocking ready-read (R21, R66). -/
structure State.Sequenced (s : State) : Prop where
  busy : s.opstate = .busy ↔ s.pending.isSome = true

/-- The byte spaces: each in its one form and within its size (R50 to R54), WIN holding a ready window (R72), the window
indexes in range (R24, R25). -/
structure State.SpacesOk (s : State) : Prop where
  pin : s.pin = Memory.ofBytes s.pin.contents
  fbuf : s.fbuf = Memory.ofBytes s.fbuf.contents
  fbufSize : s.fbuf.length ≤ 260
  win : s.win = Memory.ofBytes s.win.contents
  nread : s.nread = s.win.length
  window : s.nread ≤ 32
  idx : s.idx ≤ s.nread
  readyWin : s.nread ≠ 0 → ready s.win.contents = true
  dst : s.dst.wf

/-- The result registers agree with each other (R253, R254, R26, R27), and RCOUNT keeps the bound of R194. -/
structure State.RecordOk (s : State) : Prop where
  code : s.errcode ≠ .none ↔ s.result = some .err
  expected : s.errexp ≠ .none ↔ s.errcode = .invalidByte
  byte : s.errcode ≠ .invalidByte → s.errbyte = 0#8
  token : s.errtok.isSome = true ↔ s.errcode = .transportWrite ∨ s.errcode = .transportRead
  wrap : s.errwrap = true →
    s.errcode ≠ .none ∧ s.errcode ≠ .timeout ∧ s.errcode ≠ .tooMuchData ∧ s.errcode ≠ .transportWrite
  failed : s.rstat = .failed → s.errcode = .invalidChecksumLength ∨ s.errcode = .invalidByte
  ended : s.rstat = .complete ∨ s.rstat = .pending → s.result = some .ok
  count : ∀ b, s.rcount = some b → b.toNat ≤ 25

/-- The bus: every write carried a frame (R61, R90), and `writes` counts them. -/
structure State.BusOk (s : State) : Prop where
  frames : ∀ e ∈ s.trace, e.Good
  count : s.writes = writesIn s.trace

/-- The invariant of the block. -/
structure State.Inv (s : State) : Prop where
  sequenced : s.Sequenced
  spaces : s.SpacesOk
  record : s.RecordOk
  bus : s.BusOk

/-- A run that never stops with a fault. -/
def SafeFrom (s : State) : Prop := ∀ k f, Sys2Proof.core.run k s ≠ .fault f

/-- What is left of a state when the hidden state of R29 is wiped out: the parser state, LREG, ACC, IDX, NREAD and the
window contents; and FBUF, which is internal (R52). -/
def State.clientView (s : State) : State :=
  { s with acc := none, pst := .start, lreg := 0#8, idx := 0, nread := 0, win := [], fbuf := [] }

/-- The client's view of an answer. -/
def viewOf : Answer → Answer
  | .next s => .next s.clientView
  | .fault f => .fault f
  | .refused r => .refused r

end Sys2Proof.Machine
end

