-- ==== Sys2Proof/Certificates/Slice0/Obligations.lean ====
section
/-! DEFINITION. The statements for the provers, and the words they are written in. A docstring cites the rule each one
formalises; "derived" marks one that rests on the spec's own inference or on a choice of the model's. -/

namespace Sys2Proof.Claims

open Sys2Proof.Machine

/-- What an operation records when it returns (R254), with RSTAT as R26 says; the block is IDLE with nothing in
progress (R21). -/
def okEnd (r : RStat) (s : State) : State :=
  { s with opstate := .idle, pending := none, result := some .ok, errcode := .none, errbyte := 0x00#8,
           errexp := .none, errwrap := false, errtok := none, rstat := r }

/-- What an operation records when it raises an error (R253); the block is IDLE with nothing in progress (R21). -/
def errEnd (c : ErrCode) (b : Byte) (x : Expected) (tok : Option TErr) (wrap : Bool) (r : RStat) (s : State) : State :=
  { s with opstate := .idle, pending := none, result := some .err, errcode := c, errbyte := b,
           errexp := x, errwrap := wrap, errtok := tok, rstat := r }

/-- An error that carries neither a byte nor a token, raised unwrapped by an operation other than HDR.PARSE (R253). -/
def plainErr (c : ErrCode) (s : State) : State := errEnd c 0x00#8 .none none false .none s

/-- The integer sum of a sequence (R232). -/
def total (xs : List Byte) : Nat := (xs.map BitVec.toNat).sum

/-- The frame of a payload by the source's formulas (R90 to R94). -/
def frameOf (p : List Byte) : List Byte :=
  [0x00#8, 0xFF#8, BitVec.ofNat 8 (p.length + 1), BitVec.ofNat 8 ((256 - (p.length + 1)) % 256), 0xD4#8] ++ p ++
    [BitVec.ofNat 8 ((256 - (0xD4 + total p) % 256) % 256)]

/-- ERRCODE's number, by the table of R252. -/
def errNumber : ErrCode → Nat
  | .none => 0
  | .tooMuchData => 1
  | .transportWrite => 2
  | .transportRead => 3
  | .invalidChecksumLength => 4
  | .invalidChecksumData => 5
  | .invalidByte => 6
  | .unexpectedEnd => 7
  | .timeout => 8

/-- ERREXP's number (R27). -/
def expNumber : Expected → Nat
  | .none => 0
  | .tfiD2H => 1
  | .atLeastOne => 2

/-- RSTAT's number (R26). -/
def rstatNumber : RStat → Nat
  | .none => 0
  | .complete => 1
  | .pending => 2
  | .failed => 3

/-- RESULT's number (R20). -/
def resultNumber : ResultCode → Nat
  | .ok => 0
  | .err => 1

/-- What a client reads from a register that may hold no value (R30). -/
def readOrFault (r : ClientReg) (v : Option ClientValue) : Except Fault ClientValue :=
  match v with
  | some x => .ok x
  | none => .error (.noValue r)

/-- The block can accept a command (R110). -/
def Idle (s : State) : Prop := s.opstate = .idle

/-- The block can accept a command that touches the bus (R110, R292). -/
def IdleOnBus (s : State) : Prop := s.opstate = .idle ∧ s.attached = true

/-- The transport's answers to come: `waits`, none of them ready, then `a`, which ends a ready-read with `r`, then
`rest` (R64). -/
def Answered (s : State) (waits : List ReadAttempt) (a : ReadAttempt) (r : ReadyEnd) (rest : List ReadAttempt) : Prop :=
  s.reads = waits ++ a :: rest ∧ (∀ b ∈ waits, b.NotReady) ∧ a.Answers r

/-- The bus after the transport reads `made`, with `rest` to come (R64, R73). -/
def afterReads (made rest : List ReadAttempt) (s : State) : State :=
  { s with reads := rest, trace := s.trace ++ made.map BusEvent.read }

/-- The window registers and WIN after a ready-read returned `ws` and the parser consumed `n` bytes of it (R53, R24). -/
def windowed (ws : List Byte) (n : Nat) (s : State) : State :=
  { s with nread := ws.length, win := Memory.ofBytes ws, idx := n }

/-- PST and LREG. -/
def parsedTo (p : PState) (l : Byte) (s : State) : State := { s with pst := p, lreg := l }

/-- The first 00 FF pair of `ws` ends at `k` and is followed by `tail` (R163 b). -/
def HeaderAt (ws : List Byte) (k : Nat) (tail : List Byte) : Prop := FirstPair ws k ∧ ws.drop (k + 1) = tail

/-- The bus after the reads of a timed ready-read past the drawn answers (R70; log entry 5). -/
def afterDeadline (t : Duration) (s : State) : State := { s with trace := s.trace ++ [.unready t] }

/-- The frame write of SEND on the bus (R61, R138). -/
def afterWrite (p : List Byte) (r : WriteResult) (s : State) : State :=
  { s with writes := s.writes + 1, writeResults := s.writeResults.tail,
           trace := s.trace ++ [.write (frameOf p) r] }

/-- PIN holding the payload, FBUF the frame, and ACC the fold of the payload seeded with 0xD4 (R51, R52, R137). -/
def framed (p : List Byte) (s : State) : State :=
  { s with pin := Memory.ofBytes p, fbuf := Memory.ofBytes (frameOf p),
           acc := some (BitVec.ofNat 8 (0xD4 + total p)) }

/-- The device-emulating loopback of D14: the ready window that answers a written frame. -/
def deviceReply (fr : List Byte) : List Byte :=
  let p := (fr.drop 5).dropLast
  0x01#8 :: fr.take 4 ++ [0xD5#8] ++ p ++ [BitVec.ofNat 8 ((256 - (0xD5 + total p) % 256) % 256)]

end Sys2Proof.Claims

open Sys2Proof Sys2Proof.Machine Sys2Proof.Claims

/-! Reset, the command port and the step. -/

/-- R30: after reset every register holds the value of the table; "no value" is `none`, LREG is read through
`State.lregValue` (R23), and the client's read of a result register that holds no value is a fault. FBUF and WIN hold no
value (R290). -/
def Obligations.ResetLeavesSpecValues : Prop :=
  let s := State.reset
  s.opstate = .idle ∧ s.pst = .start ∧ s.idx = 0 ∧ s.nread = 0 ∧ s.acc = none ∧ s.lregValue = none ∧
  s.result = none ∧ s.rcount = none ∧ s.rbyte = none ∧ s.rpos = none ∧ s.rstat = .none ∧ s.errcode = .none ∧
  s.errbyte = 0x00#8 ∧ s.errexp = .none ∧ s.errwrap = false ∧ s.errtok = none ∧
  (∀ r ∈ [ClientReg.result, .rcount, .rbyte, .rpos, .errtok], clientReadReg r s = .error (.noValue r)) ∧
  (∀ r ∈ [ClientReg.rstat, .errcode, .errbyte, .errexp, .errwrap], clientReadReg r s = .ok (.num 0)) ∧
  (∀ i, s.fbuf.read i = none ∧ s.win.read i = none)

/-- Derived from R290 with R30, R73 and R187 (log entry 9): asserting reset ends any operation, one waiting in a ready-read among them,
gives the registers their reset values and leaves FBUF and WIN without a value. Between two steps it leaves DST, PIN and what was
written to the bus, and so it does where the command would be refused. Within a step, which the block would have ended in `u`, the
first `n` lasting actions stand: of the bus events `new` the operation would have made, in order, the first `n`, and of its copy
into DST, which follows them and goes up from index 0, the bytes below what is left of `n`. Every other byte of DST is unchanged. -/
def Obligations.ResetInputEndsAnyOperation : Prop :=
  ∀ (s : State) (r : ResetPoint), s.resetIn = some r → ∃ t, step s = .next t ∧
    t.opstate = .idle ∧ t.pending = none ∧ t.pst = .start ∧ t.idx = 0 ∧ t.nread = 0 ∧ t.acc = none ∧
    t.lregValue = none ∧ t.result = none ∧ t.rcount = none ∧ t.rbyte = none ∧ t.rpos = none ∧ t.rstat = .none ∧
    t.errcode = .none ∧ t.errbyte = 0x00#8 ∧ t.errexp = .none ∧ t.errwrap = false ∧ t.errtok = none ∧
    (∀ i, t.fbuf.read i = none ∧ t.win.read i = none) ∧
    (r = .between ∨ (∃ q, step { s with resetIn := none } = .refused q) →
      (∀ i, t.dst.read i = s.dst.read i ∧ t.pin.read i = s.pin.read i) ∧ t.trace = s.trace) ∧
    (∀ n u new, r = .within n → step { s with resetIn := none } = .next u → u.trace = s.trace ++ new →
      t.trace = s.trace ++ new.take n ∧ (∀ i, t.pin.read i = u.pin.read i) ∧
      ∀ i, t.dst.read i = if i < n - new.length then u.dst.read i else s.dst.read i)

/-- R111: the eight command bytes written out from the table, with operands, decode to the operations they stand for. -/
def Obligations.WrittenCommandsDecode : Prop :=
  decode { cmd := 0b00000000#8, seed := 0xD4#8, bytes := [0x14#8] } = .ok (.csumFold 0xD4#8 [0x14#8]) ∧
  decode { cmd := 0b00000001#8, bytes := [0x01#8] } = .ok (.preScan [0x01#8]) ∧
  decode { cmd := 0b00000010#8, bytes := [0x00#8, 0xFF#8] } = .ok (.hdrParse [0x00#8, 0xFF#8]) ∧
  decode { cmd := 0b00000011#8, bytes := [0x2A#8] } = .ok (.send [0x2A#8]) ∧
  decode { cmd := 0b00000100#8, dcap := 32 } = .ok (.recv 32) ∧
  decode { cmd := 0b00000101#8, dcap := 32, dur := { num := 500 } } = .ok (.recvTo 32 { num := 500 }) ∧
  decode { cmd := 0b00000110#8 } = .ok .recvAck ∧
  decode { cmd := 0b00000111#8, bytes := [0x14#8] } = .ok (.sendAck [0x14#8])

/-- Derived from R110 to R113 and the port of log entry 1: a command decodes to an operation exactly when it is the
command that spells it, so no bit of CMD and no operand line is dropped. -/
def Obligations.DecodeIsInverseOfEncode : Prop :=
  ∀ (c : Command) (i : Instr), decode c = .ok i ↔ c = encode i

/-- R112: a command with `CMD[7:4] ≠ 0000`, or with `OP` in `0x8 .. 0xF`, is refused whatever its operands, by an idle
block: it has no step. -/
def Obligations.ReservedCommandsAreRefused : Prop :=
  ∀ (s : State) (c : Command) (rest : List Command),
    s.resetIn = none → Idle s → s.port = c :: rest → (16 ≤ c.cmd.toNat ∨ 8 ≤ c.cmd.toNat % 16) →
    ∃ r, step s = .refused (.reservedCommand r)

/-- Derived from R21: a command presented while OPSTATE is BUSY is refused. -/
def Obligations.BusyBlockRefusesCommands : Prop :=
  ∀ (i : Instr) (s : State), s.opstate = .busy → exec i s = .refused .commandWhileBusy

/-- Derived from R110 and R21 (log entries 1, 2): a step runs the decoded command; an idle block with no reset asserted takes the client's next command off the
port and executes it. -/
def Obligations.StepRunsDecodedCommand : Prop :=
  ∀ (s : State) (c : Command) (rest : List Command) (i : Instr),
    s.resetIn = none → Idle s → s.port = c :: rest → decode c = .ok i →
    step s = exec i { s with port := rest }

/-- Derived from R291 (log entry 17): an idle block with no command and no reset stays as it is. -/
def Obligations.IdleBlockWaitsForCommand : Prop :=
  ∀ s : State, s.resetIn = none → Idle s → s.port = [] → step s = .next s

/-- Derived from R292 (log entry 11): with no transport attached the operations that touch the bus are refused, a too
long SEND or SEND.ACK still raises TooMuchData (it touches no bus), and the primitives need no transport. PIN then holds the payload
the client presented: the model's choice (log entry 13). -/
def Obligations.BusOperationsNeedTransport : Prop :=
  ∀ s : State, Idle s → s.attached = false →
    (∀ d, exec (.recv d) s = .refused .noTransport) ∧
    (∀ d t, exec (.recvTo d t) s = .refused .noTransport) ∧
    exec .recvAck s = .refused .noTransport ∧
    (∀ p, p.length ≤ 254 → exec (.send p) s = .refused .noTransport ∧ exec (.sendAck p) s = .refused .noTransport) ∧
    (∀ p, 254 < p.length →
      exec (.send p) s = .next (plainErr .tooMuchData { s with pin := Memory.ofBytes p }) ∧
      exec (.sendAck p) s = .next (plainErr .tooMuchData { s with pin := Memory.ofBytes p })) ∧
    (∀ xs, ∃ t u, exec (.preScan xs) s = .next t ∧ exec (.hdrParse xs) s = .next u) ∧
    (∀ seed xs, ∃ t, exec (.csumFold seed xs) s = .next t)

/-! The checksum fold. -/

/-- R233 with R232: CSUM.FOLD leaves (seed + Σ xs) mod 256 in ACC and RBYTE, records success, and changes nothing
else. -/
def Obligations.CsumFoldIsSumModulo256 : Prop :=
  ∀ (seed : Byte) (xs : List Byte) (s : State), Idle s →
    exec (.csumFold seed xs) s =
      .next (okEnd .none { s with acc := some (BitVec.ofNat 8 (seed.toNat + total xs)),
                                  rbyte := some (BitVec.ofNat 8 (seed.toNat + total xs)) })

/-- Derived from R234: folding `ys` from the result of folding `xs` leaves what folding both leaves. -/
def Obligations.CsumFoldComposes : Prop :=
  ∀ (seed r : Byte) (xs ys : List Byte) (s t : State), Idle s →
    exec (.csumFold seed xs) s = .next t → t.rbyte = some r →
    exec (.csumFold r ys) t = exec (.csumFold seed (xs ++ ys)) s

/-- Derived from R235 and R236: the DCS is the only byte that makes a body sum to zero, the LCS the only one that makes
the length sum to zero, and the inbound DCS is the outbound one less 1. -/
def Obligations.ChecksumBytesAreUnique : Prop :=
  (∀ (t d : Byte) (p : List Byte),
    sum8 t (p ++ [d]) = 0x00#8 ↔ d = BitVec.ofNat 8 ((256 - (t.toNat + total p) % 256) % 256)) ∧
  (∀ l c : Byte, l + c = 0x00#8 ↔ c = BitVec.ofNat 8 ((256 - l.toNat) % 256)) ∧
  (∀ p : List Byte, neg8 (sum8 0xD5#8 p) = neg8 (sum8 0xD4#8 p) - 1#8)

/-! The parser. -/

/-- R151, R152 and R155 to R157 whole, and the transitions of R153 and R158 to R160, on every byte. The row of R154 is
`ZeroRunStaysInZero`. -/
def Obligations.ParserFollowsTransitionTable : Prop :=
  ∀ (m : Mode) (l b : Byte),
    (b = 0x00#8 → parserStep Config.zeroInZeroFound m ⟨.start, l⟩ b = .next ⟨.zero, l⟩) ∧
    (b ≠ 0x00#8 → parserStep Config.zeroInZeroFound m ⟨.start, l⟩ b = .next ⟨.start, l⟩) ∧
    (b = 0xFF#8 → parserStep Config.zeroInZeroFound .full ⟨.zero, l⟩ b = .next ⟨.len, l⟩ ∧
                  parserStep Config.zeroInZeroFound .preambleOnly ⟨.zero, l⟩ b = .complete) ∧
    (b ≠ 0x00#8 → b ≠ 0xFF#8 → parserStep Config.zeroInZeroFound m ⟨.zero, l⟩ b = .next ⟨.start, l⟩) ∧
    parserStep Config.zeroInZeroFound .full ⟨.len, l⟩ b = .next ⟨.lcs, b⟩ ∧
    ((l.toNat + b.toNat) % 256 = 0 → parserStep Config.zeroInZeroFound .full ⟨.lcs, l⟩ b = .next ⟨.tfi, l⟩) ∧
    ((l.toNat + b.toNat) % 256 ≠ 0 →
      parserStep Config.zeroInZeroFound .full ⟨.lcs, l⟩ b = .fail .invalidChecksumLength) ∧
    (b = 0xD5#8 → parserStep Config.zeroInZeroFound .full ⟨.tfi, l⟩ b = .next ⟨.done, l⟩) ∧
    (b ≠ 0xD5#8 → parserStep Config.zeroInZeroFound .full ⟨.tfi, l⟩ b = .fail (.invalidByte b .tfiD2H))

/-- Derived: the spec's own resolution D5 of the conflict C1 (R154, log entry 12). A 0x00 in ZERO stays in ZERO, as if START
had looked at it again. -/
def Obligations.ZeroRunStaysInZero : Prop :=
  ∀ (m : Mode) (l : Byte),
    parserStep Config.zeroInZeroFound m ⟨.zero, l⟩ 0x00#8 = .next ⟨.zero, l⟩ ∧
    parserStep Config.zeroInZeroFound m ⟨.zero, l⟩ 0x00#8 = parserStep Config.zeroInZeroFound m ⟨.start, l⟩ 0x00#8

/-- Derived from R164 and R163 b, which rest on the spec's choices D5 and D32: PRE.SCAN completes on consuming the 0xFF of
the first 00 FF pair, whatever stands before it, with PST in ZERO, and changes nothing else. -/
def Obligations.PreScanCompletesAtFirstPair : Prop :=
  ∀ (xs : List Byte) (k : Nat) (s : State), Idle s → FirstPair xs k →
    exec (.preScan xs) s = .next (okEnd .complete { s with pst := .zero, rpos := some (k + 1) })

/-- Derived from R164 and R163 b, c (D5): without a 00 FF pair PRE.SCAN is PENDING, every byte consumed, in ZERO after a 0x00 and in START after any other
last byte or none. -/
def Obligations.PreScanPendingWithoutPair : Prop :=
  ∀ (xs : List Byte) (s : State), Idle s → NoPair xs →
    exec (.preScan xs) s =
      .next (okEnd .pending { s with pst := if xs.getLast? = some 0x00#8 then .zero else .start, rpos := some xs.length })

/-- Derived from R165 and R163 (D5): HDR.PARSE reaches DONE three bytes after the first 00 FF pair when LEN and LCS sum to zero and the TFI is 0xD5,
with the length, 0 included, in RBYTE; the bytes after the TFI are not consumed. -/
def Obligations.HdrParseReachesDone : Prop :=
  ∀ (xs rest : List Byte) (l c : Byte) (k : Nat) (s : State), Idle s →
    HeaderAt xs k (l :: c :: 0xD5#8 :: rest) → (l.toNat + c.toNat) % 256 = 0 →
    exec (.hdrParse xs) s =
      .next (okEnd .complete { s with pst := .done, lreg := l, rpos := some (k + 4), rbyte := some l })

/-- Derived from R165 with R158 and R160 (D5): HDR.PARSE fails at the first bad byte, a bad LCS before a bad TFI, leaving PST where the step
failed. -/
def Obligations.HdrParseFailsAtFirstBadByte : Prop :=
  (∀ (xs rest : List Byte) (l c : Byte) (k : Nat) (s : State), Idle s →
    HeaderAt xs k (l :: c :: rest) → (l.toNat + c.toNat) % 256 ≠ 0 →
    exec (.hdrParse xs) s = .next (errEnd .invalidChecksumLength 0x00#8 .none none false .failed
      { s with pst := .lcs, lreg := l, rpos := some (k + 3) })) ∧
  (∀ (xs rest : List Byte) (l c f : Byte) (k : Nat) (s : State), Idle s →
    HeaderAt xs k (l :: c :: f :: rest) → (l.toNat + c.toNat) % 256 = 0 → f ≠ 0xD5#8 →
    exec (.hdrParse xs) s = .next (errEnd .invalidByte f .tfiD2H none false .failed
      { s with pst := .tfi, lreg := l, rpos := some (k + 4) }))

/-- Derived from R165 (D5, D28): HDR.PARSE whose input ends before DONE is PENDING without an error, wherever it ends. -/
def Obligations.HdrParsePendingAtInputEnd : Prop :=
  ∀ (xs : List Byte) (s : State), Idle s →
    (NoPair xs → exec (.hdrParse xs) s = .next (okEnd .pending
      { s with pst := if xs.getLast? = some 0x00#8 then .zero else .start, rpos := some xs.length })) ∧
    (∀ k, HeaderAt xs k [] → exec (.hdrParse xs) s = .next (okEnd .pending
      { s with pst := .len, rpos := some xs.length })) ∧
    (∀ k l, HeaderAt xs k [l] → exec (.hdrParse xs) s = .next (okEnd .pending
      { s with pst := .lcs, lreg := l, rpos := some xs.length })) ∧
    (∀ k l c, HeaderAt xs k [l, c] → (l.toNat + c.toNat) % 256 = 0 → exec (.hdrParse xs) s = .next (okEnd .pending
      { s with pst := .tfi, lreg := l, rpos := some xs.length }))

/-- Derived from R182 (D8): the status byte makes no difference, since it is never 0x00. A run from the first byte of a
window ends as a run from the second, one byte later. -/
def Obligations.StatusByteMakesNoDifference : Prop :=
  ∀ (m : Mode) (l b : Byte) (ws : List Byte), ready (b :: ws) = true →
    runParser m l (b :: ws) =
      { runParser m l ws with consumed := (runParser m l ws).consumed + 1 }

/-! SEND. -/

/-- Derived from R130 with R132 to R138: a payload of 0 to 254 bytes is framed in FBUF, its fold in ACC, and the whole frame
handed to the bus in one write, which the transport accepts; nothing else changes. PIN holds the payload the client
presented with the command: the model's choice (log entry 13). -/
def Obligations.SendWritesOneFrame : Prop :=
  ∀ (p : List Byte) (s : State), IdleOnBus s → p.length ≤ 254 → s.drawWrite = .ok →
    exec (.send p) s = .next (okEnd .none (afterWrite p .ok (framed p s)))

/-- Derived from R131: above 254 bytes SEND and SEND.ACK raise TooMuchData; FBUF is not written and there is no bus access. PIN
holds the payload the client presented: the model's choice (log entry 13). -/
def Obligations.SendRejectsLongPayload : Prop :=
  ∀ (p : List Byte) (s : State), Idle s → 254 < p.length →
    exec (.send p) s = .next (plainErr .tooMuchData { s with pin := Memory.ofBytes p }) ∧
    exec (.sendAck p) s = .next (plainErr .tooMuchData { s with pin := Memory.ofBytes p })

/-- Derived from R139 and R140 (PIN by log entry 13): when the bus write fails with `e`, SEND and SEND.ACK raise TransportWrite(e) after that one write; no
second write and no read is made. -/
def Obligations.SendRaisesWriteFailure : Prop :=
  ∀ (p : List Byte) (e : TErr) (s : State), IdleOnBus s → p.length ≤ 254 → s.drawWrite = .terr e →
    exec (.send p) s =
      .next (errEnd .transportWrite 0x00#8 .none (some e) false .none (afterWrite p (.terr e) (framed p s))) ∧
    exec (.sendAck p) s =
      .next (errEnd .transportWrite 0x00#8 .none (some e) false .none (afterWrite p (.terr e) (framed p s)))

/-- R132 to R135 and R137, byte by byte: after a SEND or SEND.ACK that built a frame, FBUF holds the preamble, `p + 1`, the LCS,
0xD4, the payload in order and the DCS, each by its formula; so both checksum relations hold (R141), and no byte from `p + 6`
on has a value (R52). -/
def Obligations.FrameBytesInFbuf : Prop :=
  ∀ (p : List Byte) (i : Instr) (s t : State), (i = .send p ∨ i = .sendAck p) → p.length ≤ 254 → exec i s = .next t →
    ∃ l c d : Byte,
      t.fbuf.read 0 = some 0x00#8 ∧ t.fbuf.read 1 = some 0xFF#8 ∧ t.fbuf.read 2 = some l ∧ t.fbuf.read 3 = some c ∧
      t.fbuf.read 4 = some 0xD4#8 ∧ (∀ j, j < p.length → t.fbuf.read (5 + j) = p[j]?) ∧
      t.fbuf.read (5 + p.length) = some d ∧ (∀ j, p.length + 6 ≤ j → t.fbuf.read j = none) ∧
      l.toNat = p.length + 1 ∧ c.toNat = (256 - l.toNat) % 256 ∧ d.toNat = (256 - (0xD4 + total p) % 256) % 256 ∧
      (l.toNat + c.toNat) % 256 = 0 ∧ (0xD4 + total p + d.toNat) % 256 = 0

/-- The frame of SEND and SEND.ACK, derived from R130 and R215: whatever the outcome, DST, RCOUNT, RBYTE, RPOS and LREG's bits are unchanged;
that SEND.ACK leaves LREG's bits, which then hold no value (R150), is the model's choice (log entry 4). SEND also leaves the window, the parser and the reads to come. -/
def Obligations.SendLeavesTheRest : Prop :=
  ∀ (p : List Byte) (s t : State),
    (exec (.send p) s = .next t ∨ exec (.sendAck p) s = .next t →
      (∀ j, t.dst.read j = s.dst.read j) ∧ t.rcount = s.rcount ∧ t.rbyte = s.rbyte ∧ t.rpos = s.rpos ∧
      t.lreg = s.lreg ∧ t.attached = s.attached ∧ t.port = s.port ∧ t.resetIn = s.resetIn) ∧
    (exec (.send p) s = .next t →
      (∀ j, t.win.read j = s.win.read j) ∧ t.nread = s.nread ∧ t.idx = s.idx ∧ t.pst = s.pst ∧ t.reads = s.reads)

/-! RECV and RECV.TO. -/

/-- Derived from R180 with R184 and R186 to R189 (the header by R163, which rests on D5): a ready window whose first 00 FF pair is followed by a valid frame is accepted. RECV
returns the number of payload bytes copied, min(L - 1, DCAP); DST holds them from index 0 and every other byte of it is
unchanged; the bytes after the frame are ignored. A read of zero bytes counts as not ready (D13). -/
def Obligations.RecvDeliversPayload : Prop :=
  ∀ (dcap k : Nat) (waits rest : List ReadAttempt) (a : ReadAttempt) (ws payload trail : List Byte) (l c d : Byte) (s : State),
    IdleOnBus s → Answered s waits a (.window ws) rest →
    HeaderAt ws k (l :: c :: 0xD5#8 :: (payload ++ d :: trail)) → (l.toNat + c.toNat) % 256 = 0 →
    l.toNat = payload.length + 1 → (0xD5 + total payload + d.toNat) % 256 = 0 →
    ∃ dst', exec (.recv dcap) s = .next (okEnd .none
        { parsedTo .done l (windowed ws (k + 4) (afterReads (waits ++ [a]) rest s)) with
          acc := some 0x00#8, dst := dst', rcount := some (BitVec.ofNat 8 (min payload.length dcap)) }) ∧
      ∀ j, dst'.read j = if j < min payload.length dcap then payload[j]? else s.dst.read j

/-- Derived from R191 (the header rests on D5, log entry 12): the same for RECV.TO, where the attempts before the ready one have not passed the deadline; the ready one may come
after it (R69). A read of zero bytes counts as not ready (D13). -/
def Obligations.RecvToDeliversPayload : Prop :=
  ∀ (dcap k : Nat) (t : Duration) (waits rest : List ReadAttempt) (a : ReadAttempt) (ws payload trail : List Byte) (l c d : Byte) (s : State),
    IdleOnBus s → Answered s waits a (.window ws) rest → waitTime waits ≤ t.ms →
    HeaderAt ws k (l :: c :: 0xD5#8 :: (payload ++ d :: trail)) → (l.toNat + c.toNat) % 256 = 0 →
    l.toNat = payload.length + 1 → (0xD5 + total payload + d.toNat) % 256 = 0 →
    ∃ dst', exec (.recvTo dcap t) s = .next (okEnd .none
        { parsedTo .done l (windowed ws (k + 4) (afterReads (waits ++ [a]) rest s)) with
          acc := some 0x00#8, dst := dst', rcount := some (BitVec.ofNat 8 (min payload.length dcap)) }) ∧
      ∀ j, dst'.read j = if j < min payload.length dcap then payload[j]? else s.dst.read j

/-- Derived from R182 with R158 and R160 (D5): RECV raises the header's first failure as it stands, a bad LCS or a byte other than 0xD5 where
the TFI is expected. A read of zero bytes counts as not ready (D13). -/
def Obligations.RecvRaisesHeaderErrors : Prop :=
  ∀ (dcap k : Nat) (waits rest : List ReadAttempt) (a : ReadAttempt) (ws tail : List Byte) (l c f : Byte) (s : State),
    IdleOnBus s → Answered s waits a (.window ws) rest →
    (HeaderAt ws k (l :: c :: tail) → (l.toNat + c.toNat) % 256 ≠ 0 →
      exec (.recv dcap) s = .next (plainErr .invalidChecksumLength
        (parsedTo .lcs l (windowed ws (k + 3) (afterReads (waits ++ [a]) rest s))))) ∧
    (HeaderAt ws k (l :: c :: f :: tail) → (l.toNat + c.toNat) % 256 = 0 → f ≠ 0xD5#8 →
      exec (.recv dcap) s = .next (errEnd .invalidByte f .tfiD2H none false .none
        (parsedTo .tfi l (windowed ws (k + 4) (afterReads (waits ++ [a]) rest s)))))

/-- Derived from R183 and R184 (D5, D6): a window that ends before DONE, with no preamble at all or inside the header, or that holds fewer
than `L` bytes after the TFI, is UnexpectedEnd. A read of zero bytes counts as not ready (D13). -/
def Obligations.RecvTruncatedIsUnexpectedEnd : Prop :=
  ∀ (dcap : Nat) (waits rest : List ReadAttempt) (a : ReadAttempt) (ws : List Byte) (s : State),
    IdleOnBus s → Answered s waits a (.window ws) rest →
    (NoPair ws → exec (.recv dcap) s = .next (plainErr .unexpectedEnd
      (parsedTo (if ws.getLast? = some 0x00#8 then .zero else .start) s.lreg
        (windowed ws ws.length (afterReads (waits ++ [a]) rest s))))) ∧
    (∀ k, HeaderAt ws k [] → exec (.recv dcap) s = .next (plainErr .unexpectedEnd
      (parsedTo .len s.lreg (windowed ws ws.length (afterReads (waits ++ [a]) rest s))))) ∧
    (∀ k l, HeaderAt ws k [l] → exec (.recv dcap) s = .next (plainErr .unexpectedEnd
      (parsedTo .lcs l (windowed ws ws.length (afterReads (waits ++ [a]) rest s))))) ∧
    (∀ k l c, HeaderAt ws k [l, c] → (l.toNat + c.toNat) % 256 = 0 → exec (.recv dcap) s = .next (plainErr .unexpectedEnd
      (parsedTo .tfi l (windowed ws ws.length (afterReads (waits ++ [a]) rest s))))) ∧
    (∀ k l c body, HeaderAt ws k (l :: c :: 0xD5#8 :: body) → (l.toNat + c.toNat) % 256 = 0 → body.length < l.toNat →
      exec (.recv dcap) s = .next (plainErr .unexpectedEnd
        (parsedTo .done l (windowed ws (k + 4) (afterReads (waits ++ [a]) rest s)))))

/-- Derived from R185 (D5): a zero length, whatever follows it, is InvalidByte(0x00, at least 0x01), and the data checksum is not reached. A read of zero bytes counts as not ready (D13). -/
def Obligations.RecvRejectsZeroLength : Prop :=
  ∀ (dcap k : Nat) (waits rest : List ReadAttempt) (a : ReadAttempt) (ws body : List Byte) (c : Byte) (s : State),
    IdleOnBus s → Answered s waits a (.window ws) rest →
    HeaderAt ws k (0x00#8 :: c :: 0xD5#8 :: body) → c.toNat % 256 = 0 →
    exec (.recv dcap) s = .next (errEnd .invalidByte 0x00#8 .atLeastOne none false .none
      (parsedTo .done 0x00#8 (windowed ws (k + 4) (afterReads (waits ++ [a]) rest s))))

/-- Derived from R186 (D5): a body of `L` bytes that does not sum with 0xD5 to zero is InvalidChecksum(Data); ACC holds the sum. A read of zero bytes counts as not ready (D13). -/
def Obligations.RecvRejectsBadDataChecksum : Prop :=
  ∀ (dcap k : Nat) (waits rest : List ReadAttempt) (a : ReadAttempt) (ws body trail : List Byte) (l c : Byte) (s : State),
    IdleOnBus s → Answered s waits a (.window ws) rest →
    HeaderAt ws k (l :: c :: 0xD5#8 :: (body ++ trail)) → (l.toNat + c.toNat) % 256 = 0 →
    l.toNat = body.length → 1 ≤ body.length → (0xD5 + total body) % 256 ≠ 0 →
    exec (.recv dcap) s = .next (plainErr .invalidChecksumData
      { parsedTo .done l (windowed ws (k + 4) (afterReads (waits ++ [a]) rest s)) with
        acc := some (BitVec.ofNat 8 (0xD5 + total body)) })

/-- Derived from R67: a transport read that fails ends the ready-read at once, without retry; and (R181, R210, R193) the operation raises TransportRead with
its token, wrapped by RECV.TO only; no window, parser register or byte of DST is written. A read of zero bytes counts as not ready (D13). -/
def Obligations.ReadFailureIsRaised : Prop :=
  ∀ (dcap : Nat) (t : Duration) (waits rest : List ReadAttempt) (a : ReadAttempt) (e : TErr) (s : State),
    IdleOnBus s → Answered s waits a (.terr e) rest →
    exec (.recv dcap) s = .next (errEnd .transportRead 0x00#8 .none (some e) false .none (afterReads (waits ++ [a]) rest s)) ∧
    exec .recvAck s = .next (errEnd .transportRead 0x00#8 .none (some e) false .none (afterReads (waits ++ [a]) rest s)) ∧
    (waitTime waits ≤ t.ms → exec (.recvTo dcap t) s =
      .next (errEnd .transportRead 0x00#8 .none (some e) true .none (afterReads (waits ++ [a]) rest s)))

/-- Derived from R193: where its ready-read returns what RECV's returns, RECV.TO does what RECV does, with ERRWRAP 1 on an error. A read of zero bytes counts as not ready (D13). -/
def Obligations.RecvToWrapsErrorsOfRecv : Prop :=
  ∀ (dcap : Nat) (t : Duration) (waits rest : List ReadAttempt) (a : ReadAttempt) (r : ReadyEnd) (s : State),
    IdleOnBus s → Answered s waits a r rest → waitTime waits ≤ t.ms →
    ∃ u, exec (.recv dcap) s = .next u ∧
      exec (.recvTo dcap t) s = .next { u with errwrap := decide (u.result = some .err) }

/-- Derived from R192 with R69, R70 and R11: RECV.TO raises Timeout, unwrapped, at the first attempt that is not ready after more than
`t` has elapsed; and where the outside world drew only attempts that are not ready and leave the deadline ahead, against a device that
is never ready afterwards, once more than `t` has elapsed: the reading of a drawn list that has run out is the model's choice (log
entry 5). WIN, NREAD, IDX, PST and DST are not written. A read of zero bytes counts as not ready (D13). -/
def Obligations.RecvToTimesOut : Prop :=
  ∀ (dcap : Nat) (t : Duration) (s : State), IdleOnBus s →
    (∀ waits a rest, s.reads = waits ++ a :: rest → (∀ b ∈ waits, b.NotReady) → a.NotReady →
      waitTime waits ≤ t.ms → t.ms < waitTime (waits ++ [a]) →
      exec (.recvTo dcap t) s = .next (plainErr .timeout (afterReads (waits ++ [a]) rest s))) ∧
    ((∀ b ∈ s.reads, b.NotReady) → waitTime s.reads ≤ t.ms →
      exec (.recvTo dcap t) s = .next (plainErr .timeout (afterDeadline t (afterReads s.reads [] s))))

/-- Derived from R70: RECV.TO never times out early. A Timeout comes only after at least one attempt, none of the attempts
made was ready, and more than `t` had elapsed: by the drawn attempts themselves, or by further ones past them, of which the bus then
carries the event `unready t` (at least one read, none ready, the last not before more than `t` had elapsed; the model's choice, log entry
5). A read of zero bytes counts as not ready (D13). -/
def Obligations.TimeoutOnlyAfterDeadline : Prop :=
  ∀ (dcap : Nat) (t : Duration) (s u : State), exec (.recvTo dcap t) s = .next u → u.opstate = .idle → u.errcode = .timeout →
    ∃ made, s.reads = made ++ u.reads ∧ (∀ a ∈ made, a.NotReady) ∧
      ((made ≠ [] ∧ t.ms < waitTime made ∧ u.trace = s.trace ++ made.map BusEvent.read) ∨
       (u.reads = [] ∧ waitTime made ≤ t.ms ∧ u.trace = s.trace ++ made.map BusEvent.read ++ [.unready t]))

/-- Derived from R66 and R21 (log entries 5, 20): while no attempt is ready or fails, RECV and RECV.ACK have read what there was, wait, and
leave OPSTATE BUSY and everything else unchanged. RECV.TO does not wait: see `RecvToTimesOut`. A read of zero bytes counts as not ready
(D13). -/
def Obligations.ReceiveWaitsWhileNotReady : Prop :=
  ∀ (dcap : Nat) (s : State), IdleOnBus s → (∀ a ∈ s.reads, a.NotReady) →
    exec (.recv dcap) s =
      .next { afterReads s.reads [] s with opstate := .busy, pending := some (.recv dcap) } ∧
    exec .recvAck s = .next { afterReads s.reads [] s with opstate := .busy, pending := some .recvAck }

/-- Derived from R66 (log entries 5, 20): against a device that never becomes ready a blocking ready-read never returns: after any number of steps OPSTATE is
still BUSY with the same operation in progress. A read of zero bytes counts as not ready (D13). -/
def Obligations.BlockedReadNeverEnds : Prop :=
  ∀ (s : State) (k : Nat), s.resetIn = none → s.opstate = .busy →
    ((∃ d, s.pending = some (.recv d)) ∨ s.pending = some .recvAck ∨ s.pending = some .sendAck) →
    (∀ a ∈ s.reads, a.NotReady) →
    ∃ t, Sys2Proof.core.run k s = .next t ∧ t.opstate = .busy ∧ t.pending = s.pending

/-- Derived from R64 and R21 (log entries 5, 20): when an operation waits in its blocking ready-read and the transport answers later, the step that
resumes it leaves exactly the state the operation would have left had all the answers been there at once. -/
def Obligations.LaterAnswersGiveSameEnd : Prop :=
  ∀ (i : Instr) (s w : State) (more : List ReadAttempt), s.resetIn = none →
    exec i s = .next w → w.opstate = .busy →
    step { w with reads := more } = exec i { s with reads := s.reads ++ more }

/-- The frame of RECV and RECV.TO, derived from R180, R191 and R54: PIN, FBUF, RBYTE, RPOS and the write side of the bus are unchanged, and
while the operation waits or when it ends in an error, so are every byte of DST and RCOUNT. -/
def Obligations.ReceiveLeavesTheRest : Prop :=
  ∀ (dcap : Nat) (t : Duration) (s u : State), exec (.recv dcap) s = .next u ∨ exec (.recvTo dcap t) s = .next u →
    (∀ j, u.pin.read j = s.pin.read j ∧ u.fbuf.read j = s.fbuf.read j) ∧ u.rbyte = s.rbyte ∧ u.rpos = s.rpos ∧
    u.attached = s.attached ∧ u.port = s.port ∧ u.resetIn = s.resetIn ∧ u.writes = s.writes ∧
    u.writeResults = s.writeResults ∧
    (u.opstate = .busy ∨ u.result = some .err → (∀ j, u.dst.read j = s.dst.read j) ∧ u.rcount = s.rcount)

/-- Derived from R195 (the first 00 FF pair by D5, log entry 12): a receive that returns success has read a ready window whose first 00 FF pair is followed by a frame
that satisfies both relations of the data model, and it delivered that frame's payload, truncated to DCAP. A read of zero bytes counts as not ready (D13). -/
def Obligations.AcceptedWindowCarriesValidFrame : Prop :=
  ∀ (dcap : Nat) (t : Duration) (s u : State), (exec (.recv dcap) s = .next u ∨ exec (.recvTo dcap t) s = .next u) →
    u.opstate = .idle → u.result = some .ok →
    ∃ waits a rest ws k l c d payload trail,
      Answered s waits a (.window ws) rest ∧ u.reads = rest ∧
      HeaderAt ws k (l :: c :: 0xD5#8 :: (payload ++ d :: trail)) ∧ (l.toNat + c.toNat) % 256 = 0 ∧
      l.toNat = payload.length + 1 ∧ (0xD5 + total payload + d.toNat) % 256 = 0 ∧
      u.rcount = some (BitVec.ofNat 8 (min payload.length dcap)) ∧
      (∀ j, u.dst.read j = if j < min payload.length dcap then payload[j]? else s.dst.read j)

/-- Derived from R194 (R300): one window carries a payload of at most 25 bytes; on success IDX is at least 6, the length is
at most 26 and RCOUNT at most 25. -/
def Obligations.OneWindowCarriesAtMost25Bytes : Prop :=
  ∀ (dcap : Nat) (t : Duration) (s u : State), (exec (.recv dcap) s = .next u ∨ exec (.recvTo dcap t) s = .next u) →
    u.opstate = .idle → u.result = some .ok →
    6 ≤ u.idx ∧ u.lreg.toNat ≤ 26 ∧ u.nread ≤ 32 ∧ ∃ b, u.rcount = some b ∧ b.toNat ≤ 25 ∧ b.toNat ≤ u.lreg.toNat - 1

/-- Derived from R53 and R72: after RECV or RECV.ACK whose ready-read returned a window, WIN holds exactly its bytes and NREAD
their number, 1 to 32; bit 0 of the first is set. A read of zero bytes counts as not ready (D13). -/
def Obligations.WindowHoldsTheReadyChunk : Prop :=
  ∀ (i : Instr) (dcap : Nat) (waits rest : List ReadAttempt) (a : ReadAttempt) (ws : List Byte) (s : State),
    (i = .recv dcap ∨ i = .recvAck) → IdleOnBus s → Answered s waits a (.window ws) rest →
    ∃ u b, exec i s = .next u ∧ (∀ j, u.win.read j = ws[j]?) ∧ u.nread = ws.length ∧ 1 ≤ u.nread ∧ u.nread ≤ 32 ∧
      u.win.read 0 = some b ∧ b.getLsbD 0 = true ∧ b ≠ 0x00#8

/-- Derived from R96 and R303: a frame SEND writes, presented behind any ready status byte, is never accepted by RECV; its TFI
fails. A read of zero bytes counts as not ready (D13). -/
def Obligations.HostFrameIsNeverReceived : Prop :=
  ∀ (dcap : Nat) (took : Duration) (p : List Byte) (b : Byte) (waits rest : List ReadAttempt) (s : State),
    IdleOnBus s → p.length ≤ 254 → b.getLsbD 0 = true →
    s.reads = waits ++ ⟨.bytes (b :: frameOf p), took⟩ :: rest → (∀ x ∈ waits, x.NotReady) →
    ∃ u, exec (.recv dcap) s = .next u ∧ u.opstate = .idle ∧ u.result = some .err ∧ u.errcode = .invalidByte ∧
      u.errbyte = 0xD4#8 ∧ u.errexp = .tfiD2H ∧ ∀ j, u.dst.read j = s.dst.read j

/-! RECV.ACK and SEND.ACK. -/

/-- Derived from R211 and R213 (D5, D32): RECV.ACK succeeds at the first 00 FF pair of the window, whatever the rest of it is. A read of zero bytes counts as not ready (D13). -/
def Obligations.RecvAckAcceptsFirstPair : Prop :=
  ∀ (k : Nat) (waits rest : List ReadAttempt) (a : ReadAttempt) (ws : List Byte) (s : State),
    IdleOnBus s → Answered s waits a (.window ws) rest → FirstPair ws k →
    exec .recvAck s =
      .next (okEnd .none (parsedTo .zero s.lreg (windowed ws (k + 1) (afterReads (waits ++ [a]) rest s))))

/-- Derived from R212 (D5, D7): a window without a 00 FF pair is UnexpectedEnd, the whole window scanned and no second read made. A read of zero bytes counts as not ready (D13). -/
def Obligations.RecvAckWithoutPairFails : Prop :=
  ∀ (waits rest : List ReadAttempt) (a : ReadAttempt) (ws : List Byte) (s : State),
    IdleOnBus s → Answered s waits a (.window ws) rest → NoPair ws →
    exec .recvAck s = .next (plainErr .unexpectedEnd
      (parsedTo (if ws.getLast? = some 0x00#8 then .zero else .start) s.lreg
        (windowed ws ws.length (afterReads (waits ++ [a]) rest s))))

/-- Derived from R215 (D5; PIN by log entry 13): SEND.ACK writes the frame and then reads the acknowledgement, as one command with one result. A read of zero bytes counts as not ready (D13). -/
def Obligations.SendAckWritesThenReads : Prop :=
  ∀ (k : Nat) (p : List Byte) (waits rest : List ReadAttempt) (a : ReadAttempt) (ws : List Byte) (s : State),
    IdleOnBus s → p.length ≤ 254 → s.drawWrite = .ok → Answered s waits a (.window ws) rest → FirstPair ws k →
    exec (.sendAck p) s = .next (okEnd .none (parsedTo .zero s.lreg
      (windowed ws (k + 1) (afterReads (waits ++ [a]) rest (afterWrite p .ok (framed p s))))))

/-- Derived from R215 to R217 (D5, D7; PIN by log entry 13, the wait by log entries 5 and 20): when the acknowledgement part fails, its error stands unwrapped and the frame stays written; the block
neither writes nor reads again. While nothing is ready the operation waits with the frame written. A read of zero bytes counts as not ready (D13). -/
def Obligations.SendAckKeepsFrameOnAckFailure : Prop :=
  ∀ (p : List Byte) (waits rest : List ReadAttempt) (a : ReadAttempt) (s : State),
    IdleOnBus s → p.length ≤ 254 → s.drawWrite = .ok →
    (∀ ws, Answered s waits a (.window ws) rest → NoPair ws →
      exec (.sendAck p) s = .next (plainErr .unexpectedEnd
        (parsedTo (if ws.getLast? = some 0x00#8 then .zero else .start) s.lreg
          (windowed ws ws.length (afterReads (waits ++ [a]) rest (afterWrite p .ok (framed p s))))))) ∧
    (∀ e, Answered s waits a (.terr e) rest →
      exec (.sendAck p) s = .next (errEnd .transportRead 0x00#8 .none (some e) false .none
        (afterReads (waits ++ [a]) rest (afterWrite p .ok (framed p s))))) ∧
    ((∀ b ∈ s.reads, b.NotReady) →
      exec (.sendAck p) s = .next { afterReads s.reads [] (afterWrite p .ok (framed p s)) with
        opstate := .busy, pending := some .sendAck })

/-- Derived from R215, with R21 and R66 for the wait: SEND.ACK is SEND followed by RECV.ACK, as one operation. Where SEND
fails, SEND.ACK leaves the state SEND leaves. Where SEND succeeds and the acknowledgement ends, one SEND.ACK leaves the state
the two commands leave. Where the acknowledgement waits, SEND.ACK waits having done the same on the bus; that a wait is a
BUSY state with the operation pending, once the drawn reads have run out, is the model's choice (log entries 5 and 20). -/
def Obligations.SendAckIsSendThenRecvAck : Prop :=
  ∀ (p : List Byte) (s t : State), exec (.send p) s = .next t →
    (t.result = some .err → exec (.sendAck p) s = .next t) ∧
    (∀ u, t.result = some .ok → exec .recvAck t = .next u → u.opstate = .idle → exec (.sendAck p) s = .next u) ∧
    (∀ u, t.result = some .ok → exec .recvAck t = .next u → u.opstate = .busy →
      ∃ w, exec (.sendAck p) s = .next w ∧ w.opstate = .busy ∧ w.pending = some .sendAck ∧ w.trace = u.trace ∧
        w.reads = u.reads ∧ w.fbuf = u.fbuf)

/-- The frame of RECV.ACK, derived from R210 and R214: DST, RCOUNT, RBYTE, RPOS, ACC, LREG's bits, PIN, FBUF and the write side of the bus
are unchanged. That LREG's bits, which then hold no value (R150), stay is the model's choice (log entry 4). -/
def Obligations.RecvAckLeavesTheRest : Prop :=
  ∀ s t : State, exec .recvAck s = .next t →
    (∀ j, t.dst.read j = s.dst.read j ∧ t.pin.read j = s.pin.read j ∧ t.fbuf.read j = s.fbuf.read j) ∧
    t.rcount = s.rcount ∧ t.rbyte = s.rbyte ∧ t.rpos = s.rpos ∧ t.acc = s.acc ∧ t.lreg = s.lreg ∧
    t.attached = s.attached ∧ t.port = s.port ∧ t.resetIn = s.resetIn ∧ t.writes = s.writes ∧
    t.writeResults = s.writeResults

/-! The whole machine. -/

/-- Derived from R61, R73, R74, R138 and R140: what an operation does on the bus, in order. Only SEND and SEND.ACK write, one
frame, once, first, and nothing above 254 bytes; SEND reads nothing; a read follows a write in SEND.ACK only when the write
was accepted; the primitives do nothing. Past the drawn reads RECV.TO may only make the reads of a Timeout (`unready`, log entry 5). -/
def Obligations.BusTraceOfEachOperation : Prop :=
  ∀ (i : Instr) (s t : State), exec i s = .next t →
    match i with
    | .csumFold _ _ | .preScan _ | .hdrParse _ => t.trace = s.trace ∧ t.reads = s.reads
    | .send p =>
      t.reads = s.reads ∧ t.trace = s.trace ++ (if p.length ≤ 254 then [.write (frameOf p) s.drawWrite] else [])
    | .recv _ | .recvAck =>
      ∃ made, s.reads = made ++ t.reads ∧ t.trace = s.trace ++ made.map BusEvent.read
    | .recvTo _ w =>
      ∃ made more, s.reads = made ++ t.reads ∧ t.trace = s.trace ++ made.map BusEvent.read ++ more ∧
        (more = [] ∨ (more = [.unready w] ∧ t.reads = [] ∧ t.errcode = .timeout))
    | .sendAck p =>
      ∃ made, s.reads = made ++ t.reads ∧
        t.trace = s.trace ++ (if p.length ≤ 254 then [.write (frameOf p) s.drawWrite] else []) ++ made.map BusEvent.read ∧
        (254 < p.length ∨ s.drawWrite ≠ .ok → made = [])

/-- Derived from R181, R211 and R257: one operation makes at most one ready-read. It never reads past the first attempt that
is ready or fails: every attempt but the last it made was not ready. A read of zero bytes counts as not ready (D13). -/
def Obligations.AtMostOneReadyReadPerOperation : Prop :=
  ∀ (i : Instr) (s t : State), exec i s = .next t →
    ∃ made, s.reads = made ++ t.reads ∧ ∀ a ∈ made.dropLast, a.NotReady

/-- Derived from R258, R11 and R261: every operation can be issued whenever the block is idle (with a transport attached), and
ends in a recorded result with the block IDLE, or waits BUSY, which only the operations on the blocking ready-read do; RECV.TO always
ends. That it ends where the drawn reads have run out is the model's choice (log entry 5), and the wait is log entry 20's. -/
def Obligations.EveryOperationEndsOrWaits : Prop :=
  ∀ (i : Instr) (s : State), IdleOnBus s → ∃ t, exec i s = .next t ∧
    ((t.opstate = .idle ∧ t.pending = none ∧ t.result.isSome = true) ∨
     (t.opstate = .busy ∧ t.pending.isSome = true ∧ t.result = s.result ∧
       match i with
       | .recv _ | .recvAck | .sendAck _ => True
       | _ => False))

/-- R254: an operation that returns leaves the error registers cleared as the client reads them, and ERRTOK without a value:
reading it is a fault (R30). -/
def Obligations.SuccessClearsErrorRecord : Prop :=
  ∀ (i : Instr) (s t : State), exec i s = .next t → t.opstate = .idle → t.result = some .ok →
    clientReadReg .result t = .ok (.num 0) ∧ clientReadReg .errcode t = .ok (.num 0) ∧
    clientReadReg .errbyte t = .ok (.num 0) ∧ clientReadReg .errexp t = .ok (.num 0) ∧
    clientReadReg .errwrap t = .ok (.num 0) ∧ clientReadReg .errtok t = .error (.noValue .errtok)

/-- Derived from R252, R253, R20, R26 and R27: an operation that raises leaves RESULT 1 and, as the client reads them, the code of R252's
table in ERRCODE, never 0, what was expected in ERREXP by R27's numbers, and in RSTAT 3 under HDR.PARSE and 0 otherwise. ERRBYTE and ERREXP
are zero unless the code is InvalidByte's, ERRTOK holds a value exactly for the two transport errors, and ERRWRAP is 1 only under RECV.TO and
then unless the error is Timeout. RBYTE is unchanged, and RPOS unless the operation is HDR.PARSE, and RCOUNT. -/
def Obligations.ErrorRecordFollowsItsRule : Prop :=
  ∀ (i : Instr) (s t : State), exec i s = .next t → t.opstate = .idle → t.result = some .err →
    clientReadReg .result t = .ok (.num 1) ∧
    (t.errcode ≠ .none ∧ clientReadReg .errcode t = .ok (.num (errNumber t.errcode))) ∧
    clientReadReg .errexp t = .ok (.num (expNumber t.errexp)) ∧
    ((∃ xs, i = .hdrParse xs) → clientReadReg .rstat t = .ok (.num 3)) ∧
    ((∀ xs, i ≠ .hdrParse xs) → clientReadReg .rstat t = .ok (.num 0)) ∧
    (t.errcode ≠ .invalidByte → clientReadReg .errbyte t = .ok (.num 0) ∧ clientReadReg .errexp t = .ok (.num 0)) ∧
    (t.errcode = .invalidByte → t.errexp = .tfiD2H ∨ t.errexp = .atLeastOne) ∧
    (t.errtok.isSome = true ↔ t.errcode = .transportWrite ∨ t.errcode = .transportRead) ∧
    (clientReadReg .errwrap t = .ok (.num 1) ↔ (∃ d w, i = .recvTo d w) ∧ t.errcode ≠ .timeout) ∧
    ((∀ xs, i ≠ .hdrParse xs) → t.rpos = s.rpos) ∧ t.rcount = s.rcount ∧ t.rbyte = s.rbyte

/-- Derived from R30 and R290: the invariant holds after reset. -/
def Obligations.ResetStateSatisfiesInvariant : Prop := State.reset.Inv

/-- The invariant is kept by every step, from every state that has it. Derived from R21 (BUSY exactly while waiting), R50 to
R54 and R72 (the byte spaces), R24 and R25 (the indexes), R26, R27, R253 and R254 (the result registers), R194 (RCOUNT) and R61
and R90 to R94 (only frames go to the bus). -/
def Obligations.StepKeepsInvariant : Prop :=
  ∀ s t : State, s.Inv → step s = .next t → t.Inv

/-- Derived from R258: no run faults, from any state. -/
def Obligations.NoRunFaults : Prop := ∀ s : State, SafeFrom s

/-- R29: none of the hidden state (PST, LREG, ACC, IDX, NREAD, the window), nor FBUF (R52), carries meaning from one operation
to the next. Two states the client cannot tell apart give answers it cannot tell apart, for every operation and for every
step. -/
def Obligations.HiddenStateCarriesNothing : Prop :=
  ∀ s₁ s₂ : State, s₁.clientView = s₂.clientView →
    (∀ i, viewOf (exec i s₁) = viewOf (exec i s₂)) ∧ viewOf (step s₁) = viewOf (step s₂)

/-- Derived from D14 (the source's round-trip property): a payload of at most 25 bytes that SEND writes and the device-emulating
loopback answers is received byte for byte, up to the client's capacity. -/
def Obligations.RoundTripThroughDevice : Prop :=
  ∀ (p : List Byte) (dcap : Nat) (took : Duration) (later : List ReadAttempt) (s : State),
    IdleOnBus s → p.length ≤ 25 → s.drawWrite = .ok →
    ∃ t fr, exec (.send p) s = .next t ∧ t.trace = s.trace ++ [.write fr .ok] ∧
      ∃ u, exec (.recv dcap) { t with reads := ⟨.bytes (deviceReply fr), took⟩ :: later } = .next u ∧
        u.result = some .ok ∧ u.rcount = some (BitVec.ofNat 8 (min p.length dcap)) ∧
        (∀ j, u.dst.read j = if j < min p.length dcap then p[j]? else s.dst.read j) ∧ u.reads = later

/-- Derived from R20, R307 and R30 (a byte of DST that was never written, log entry 14): what the client reads. While an operation is in
progress, nothing: every read of a register or of DST is a fault. On an idle block every result register reads as the number of its table
(R20, R26, R27, R252), or its byte, position or token; one that holds no value is a fault; and a byte of DST reads as what the space holds. -/
def Obligations.ClientReadsResultRegisters : Prop :=
  ∀ s : State,
    (s.opstate = .busy → (∀ r, clientReadReg r s = .error .readWhileBusy) ∧ ∀ i, clientReadDst i s = .error .readWhileBusy) ∧
    (s.opstate = .idle →
      clientReadReg .result s = readOrFault .result (s.result.map fun x => .num (resultNumber x)) ∧
      clientReadReg .rcount s = readOrFault .rcount (s.rcount.map fun b => .num b.toNat) ∧
      clientReadReg .rbyte s = readOrFault .rbyte (s.rbyte.map fun b => .num b.toNat) ∧
      clientReadReg .rpos s = readOrFault .rpos (s.rpos.map fun n => .num n) ∧
      clientReadReg .errtok s = readOrFault .errtok (s.errtok.map fun e => .tok e) ∧
      clientReadReg .rstat s = .ok (.num (rstatNumber s.rstat)) ∧
      clientReadReg .errcode s = .ok (.num (errNumber s.errcode)) ∧
      clientReadReg .errbyte s = .ok (.num s.errbyte.toNat) ∧
      clientReadReg .errexp s = .ok (.num (expNumber s.errexp)) ∧
      clientReadReg .errwrap s = .ok (.num (if s.errwrap then 1 else 0)) ∧
      ∀ i, (∀ b, s.dst.read i = some b → clientReadDst i s = .ok b) ∧
        (s.dst.read i = none → clientReadDst i s = .error (.noByte i)))
end

