-- ==== Sys2Proof/Laws/Checksum.lean ====
section
/-! SUPPORT. The checksum fold and `neg8` as modular arithmetic. -/

namespace Sys2Proof.Machine

@[simp] theorem sum8_nil (s : Byte) : sum8 s [] = s := rfl

@[simp] theorem sum8_cons (s x : Byte) (xs : List Byte) : sum8 s (x :: xs) = sum8 (s + x) xs := rfl

/-- The seed enters additively: the fold is a sum. -/
theorem sum8_add_seed (s d : Byte) (xs : List Byte) : sum8 (s + d) xs = sum8 s xs + d := by
  induction xs generalizing s with
  | nil => rfl
  | cons x xs ih =>
    have e : s + d + x = s + x + d := by rw [BitVec.add_assoc, BitVec.add_comm d x, ← BitVec.add_assoc]
    rw [sum8_cons, sum8_cons, e, ih]

theorem sum8_append_list (s : Byte) (xs ys : List Byte) : sum8 s (xs ++ ys) = sum8 (sum8 s xs) ys := by
  induction xs generalizing s with
  | nil => rfl
  | cons x xs ih => simpa using ih (s + x)

/-- The fold as a number: the seed and the bytes summed modulo 256. -/
theorem sum8_toNat (s : Byte) (xs : List Byte) :
    (sum8 s xs).toNat = (s.toNat + (xs.map BitVec.toNat).sum) % 256 := by
  induction xs generalizing s with
  | nil => simp; omega
  | cons x xs ih => rw [sum8_cons, ih, BitVec.toNat_add]; simp; omega

theorem neg8_toNat (a : Byte) : (neg8 a).toNat = (256 - a.toNat) % 256 := by
  have := a.isLt
  simp [neg8, BitVec.toNat_neg]

/-- A sum is 0 exactly when its second part is the negation of the first. -/
theorem add_eq_zero_iff_eq_neg8 (a b : Byte) : a + b = 0#8 ↔ b = neg8 a := by
  constructor
  · intro h
    have : b = 0#8 - a := by rw [← h]; simp
    simpa [neg8] using this
  · rintro rfl
    simp [neg8]

end Sys2Proof.Machine
end

