-- ==== Sys2Proof/Laws/State.lean ====
section
/-! SUPPORT. One lemma per field per update of State: what each named update writes and what it leaves. -/

namespace Sys2Proof.Machine

variable (s : State)


/-! `State.begin` -/

@[simp] theorem State.begin_opstate : s.begin.opstate = .busy := rfl
@[simp] theorem State.begin_acc : s.begin.acc = s.acc := rfl
@[simp] theorem State.begin_pst : s.begin.pst = s.pst := rfl
@[simp] theorem State.begin_lreg : s.begin.lreg = s.lreg := rfl
@[simp] theorem State.begin_idx : s.begin.idx = s.idx := rfl
@[simp] theorem State.begin_nread : s.begin.nread = s.nread := rfl
@[simp] theorem State.begin_result : s.begin.result = s.result := rfl
@[simp] theorem State.begin_rcount : s.begin.rcount = s.rcount := rfl
@[simp] theorem State.begin_rbyte : s.begin.rbyte = s.rbyte := rfl
@[simp] theorem State.begin_rpos : s.begin.rpos = s.rpos := rfl
@[simp] theorem State.begin_rstat : s.begin.rstat = s.rstat := rfl
@[simp] theorem State.begin_errcode : s.begin.errcode = s.errcode := rfl
@[simp] theorem State.begin_errbyte : s.begin.errbyte = s.errbyte := rfl
@[simp] theorem State.begin_errexp : s.begin.errexp = s.errexp := rfl
@[simp] theorem State.begin_errwrap : s.begin.errwrap = s.errwrap := rfl
@[simp] theorem State.begin_errtok : s.begin.errtok = s.errtok := rfl
@[simp] theorem State.begin_pin : s.begin.pin = s.pin := rfl
@[simp] theorem State.begin_fbuf : s.begin.fbuf = s.fbuf := rfl
@[simp] theorem State.begin_win : s.begin.win = s.win := rfl
@[simp] theorem State.begin_dst : s.begin.dst = s.dst := rfl
@[simp] theorem State.begin_pending : s.begin.pending = s.pending := rfl
@[simp] theorem State.begin_attached : s.begin.attached = s.attached := rfl
@[simp] theorem State.begin_port : s.begin.port = s.port := rfl
@[simp] theorem State.begin_resetIn : s.begin.resetIn = s.resetIn := rfl
@[simp] theorem State.begin_reads : s.begin.reads = s.reads := rfl
@[simp] theorem State.begin_writeResults : s.begin.writeResults = s.writeResults := rfl
@[simp] theorem State.begin_writes : s.begin.writes = s.writes := rfl
@[simp] theorem State.begin_trace : s.begin.trace = s.trace := rfl

/-! `State.presentPin` -/

@[simp] theorem State.presentPin_opstate (p : List Byte) : (s.presentPin p).opstate = s.opstate := rfl
@[simp] theorem State.presentPin_acc (p : List Byte) : (s.presentPin p).acc = s.acc := rfl
@[simp] theorem State.presentPin_pst (p : List Byte) : (s.presentPin p).pst = s.pst := rfl
@[simp] theorem State.presentPin_lreg (p : List Byte) : (s.presentPin p).lreg = s.lreg := rfl
@[simp] theorem State.presentPin_idx (p : List Byte) : (s.presentPin p).idx = s.idx := rfl
@[simp] theorem State.presentPin_nread (p : List Byte) : (s.presentPin p).nread = s.nread := rfl
@[simp] theorem State.presentPin_result (p : List Byte) : (s.presentPin p).result = s.result := rfl
@[simp] theorem State.presentPin_rcount (p : List Byte) : (s.presentPin p).rcount = s.rcount := rfl
@[simp] theorem State.presentPin_rbyte (p : List Byte) : (s.presentPin p).rbyte = s.rbyte := rfl
@[simp] theorem State.presentPin_rpos (p : List Byte) : (s.presentPin p).rpos = s.rpos := rfl
@[simp] theorem State.presentPin_rstat (p : List Byte) : (s.presentPin p).rstat = s.rstat := rfl
@[simp] theorem State.presentPin_errcode (p : List Byte) : (s.presentPin p).errcode = s.errcode := rfl
@[simp] theorem State.presentPin_errbyte (p : List Byte) : (s.presentPin p).errbyte = s.errbyte := rfl
@[simp] theorem State.presentPin_errexp (p : List Byte) : (s.presentPin p).errexp = s.errexp := rfl
@[simp] theorem State.presentPin_errwrap (p : List Byte) : (s.presentPin p).errwrap = s.errwrap := rfl
@[simp] theorem State.presentPin_errtok (p : List Byte) : (s.presentPin p).errtok = s.errtok := rfl
@[simp] theorem State.presentPin_pin (p : List Byte) : (s.presentPin p).pin = Memory.ofBytes p := rfl
@[simp] theorem State.presentPin_fbuf (p : List Byte) : (s.presentPin p).fbuf = s.fbuf := rfl
@[simp] theorem State.presentPin_win (p : List Byte) : (s.presentPin p).win = s.win := rfl
@[simp] theorem State.presentPin_dst (p : List Byte) : (s.presentPin p).dst = s.dst := rfl
@[simp] theorem State.presentPin_pending (p : List Byte) : (s.presentPin p).pending = s.pending := rfl
@[simp] theorem State.presentPin_attached (p : List Byte) : (s.presentPin p).attached = s.attached := rfl
@[simp] theorem State.presentPin_port (p : List Byte) : (s.presentPin p).port = s.port := rfl
@[simp] theorem State.presentPin_resetIn (p : List Byte) : (s.presentPin p).resetIn = s.resetIn := rfl
@[simp] theorem State.presentPin_reads (p : List Byte) : (s.presentPin p).reads = s.reads := rfl
@[simp] theorem State.presentPin_writeResults (p : List Byte) : (s.presentPin p).writeResults = s.writeResults := rfl
@[simp] theorem State.presentPin_writes (p : List Byte) : (s.presentPin p).writes = s.writes := rfl
@[simp] theorem State.presentPin_trace (p : List Byte) : (s.presentPin p).trace = s.trace := rfl

/-! `State.raise` -/

@[simp] theorem State.raise_opstate (w : Raiser) (e : Err) : (s.raise w e).opstate = .idle := rfl
@[simp] theorem State.raise_acc (w : Raiser) (e : Err) : (s.raise w e).acc = s.acc := rfl
@[simp] theorem State.raise_pst (w : Raiser) (e : Err) : (s.raise w e).pst = s.pst := rfl
@[simp] theorem State.raise_lreg (w : Raiser) (e : Err) : (s.raise w e).lreg = s.lreg := rfl
@[simp] theorem State.raise_idx (w : Raiser) (e : Err) : (s.raise w e).idx = s.idx := rfl
@[simp] theorem State.raise_nread (w : Raiser) (e : Err) : (s.raise w e).nread = s.nread := rfl
@[simp] theorem State.raise_result (w : Raiser) (e : Err) : (s.raise w e).result = some .err := rfl
@[simp] theorem State.raise_rcount (w : Raiser) (e : Err) : (s.raise w e).rcount = s.rcount := rfl
@[simp] theorem State.raise_rbyte (w : Raiser) (e : Err) : (s.raise w e).rbyte = s.rbyte := rfl
@[simp] theorem State.raise_rpos (w : Raiser) (e : Err) : (s.raise w e).rpos = s.rpos := rfl
@[simp] theorem State.raise_rstat (w : Raiser) (e : Err) : (s.raise w e).rstat = w.rstat := rfl
@[simp] theorem State.raise_errcode (w : Raiser) (e : Err) : (s.raise w e).errcode = e.errcode := rfl
@[simp] theorem State.raise_errbyte (w : Raiser) (e : Err) : (s.raise w e).errbyte = e.byte := rfl
@[simp] theorem State.raise_errexp (w : Raiser) (e : Err) : (s.raise w e).errexp = e.expected := rfl
@[simp] theorem State.raise_errwrap (w : Raiser) (e : Err) : (s.raise w e).errwrap = w.wraps e := rfl
@[simp] theorem State.raise_errtok (w : Raiser) (e : Err) : (s.raise w e).errtok = e.token := rfl
@[simp] theorem State.raise_pin (w : Raiser) (e : Err) : (s.raise w e).pin = s.pin := rfl
@[simp] theorem State.raise_fbuf (w : Raiser) (e : Err) : (s.raise w e).fbuf = s.fbuf := rfl
@[simp] theorem State.raise_win (w : Raiser) (e : Err) : (s.raise w e).win = s.win := rfl
@[simp] theorem State.raise_dst (w : Raiser) (e : Err) : (s.raise w e).dst = s.dst := rfl
@[simp] theorem State.raise_pending (w : Raiser) (e : Err) : (s.raise w e).pending = none := rfl
@[simp] theorem State.raise_attached (w : Raiser) (e : Err) : (s.raise w e).attached = s.attached := rfl
@[simp] theorem State.raise_port (w : Raiser) (e : Err) : (s.raise w e).port = s.port := rfl
@[simp] theorem State.raise_resetIn (w : Raiser) (e : Err) : (s.raise w e).resetIn = s.resetIn := rfl
@[simp] theorem State.raise_reads (w : Raiser) (e : Err) : (s.raise w e).reads = s.reads := rfl
@[simp] theorem State.raise_writeResults (w : Raiser) (e : Err) : (s.raise w e).writeResults = s.writeResults := rfl
@[simp] theorem State.raise_writes (w : Raiser) (e : Err) : (s.raise w e).writes = s.writes := rfl
@[simp] theorem State.raise_trace (w : Raiser) (e : Err) : (s.raise w e).trace = s.trace := rfl

/-! `State.succeed` -/

@[simp] theorem State.succeed_opstate (r : RStat) : (s.succeed r).opstate = .idle := rfl
@[simp] theorem State.succeed_acc (r : RStat) : (s.succeed r).acc = s.acc := rfl
@[simp] theorem State.succeed_pst (r : RStat) : (s.succeed r).pst = s.pst := rfl
@[simp] theorem State.succeed_lreg (r : RStat) : (s.succeed r).lreg = s.lreg := rfl
@[simp] theorem State.succeed_idx (r : RStat) : (s.succeed r).idx = s.idx := rfl
@[simp] theorem State.succeed_nread (r : RStat) : (s.succeed r).nread = s.nread := rfl
@[simp] theorem State.succeed_result (r : RStat) : (s.succeed r).result = some .ok := rfl
@[simp] theorem State.succeed_rcount (r : RStat) : (s.succeed r).rcount = s.rcount := rfl
@[simp] theorem State.succeed_rbyte (r : RStat) : (s.succeed r).rbyte = s.rbyte := rfl
@[simp] theorem State.succeed_rpos (r : RStat) : (s.succeed r).rpos = s.rpos := rfl
@[simp] theorem State.succeed_rstat (r : RStat) : (s.succeed r).rstat = r := rfl
@[simp] theorem State.succeed_errcode (r : RStat) : (s.succeed r).errcode = .none := rfl
@[simp] theorem State.succeed_errbyte (r : RStat) : (s.succeed r).errbyte = 0#8 := rfl
@[simp] theorem State.succeed_errexp (r : RStat) : (s.succeed r).errexp = .none := rfl
@[simp] theorem State.succeed_errwrap (r : RStat) : (s.succeed r).errwrap = false := rfl
@[simp] theorem State.succeed_errtok (r : RStat) : (s.succeed r).errtok = none := rfl
@[simp] theorem State.succeed_pin (r : RStat) : (s.succeed r).pin = s.pin := rfl
@[simp] theorem State.succeed_fbuf (r : RStat) : (s.succeed r).fbuf = s.fbuf := rfl
@[simp] theorem State.succeed_win (r : RStat) : (s.succeed r).win = s.win := rfl
@[simp] theorem State.succeed_dst (r : RStat) : (s.succeed r).dst = s.dst := rfl
@[simp] theorem State.succeed_pending (r : RStat) : (s.succeed r).pending = none := rfl
@[simp] theorem State.succeed_attached (r : RStat) : (s.succeed r).attached = s.attached := rfl
@[simp] theorem State.succeed_port (r : RStat) : (s.succeed r).port = s.port := rfl
@[simp] theorem State.succeed_resetIn (r : RStat) : (s.succeed r).resetIn = s.resetIn := rfl
@[simp] theorem State.succeed_reads (r : RStat) : (s.succeed r).reads = s.reads := rfl
@[simp] theorem State.succeed_writeResults (r : RStat) : (s.succeed r).writeResults = s.writeResults := rfl
@[simp] theorem State.succeed_writes (r : RStat) : (s.succeed r).writes = s.writes := rfl
@[simp] theorem State.succeed_trace (r : RStat) : (s.succeed r).trace = s.trace := rfl

/-! `State.setAcc` -/

@[simp] theorem State.setAcc_opstate (b : Byte) : (s.setAcc b).opstate = s.opstate := rfl
@[simp] theorem State.setAcc_acc (b : Byte) : (s.setAcc b).acc = some b := rfl
@[simp] theorem State.setAcc_pst (b : Byte) : (s.setAcc b).pst = s.pst := rfl
@[simp] theorem State.setAcc_lreg (b : Byte) : (s.setAcc b).lreg = s.lreg := rfl
@[simp] theorem State.setAcc_idx (b : Byte) : (s.setAcc b).idx = s.idx := rfl
@[simp] theorem State.setAcc_nread (b : Byte) : (s.setAcc b).nread = s.nread := rfl
@[simp] theorem State.setAcc_result (b : Byte) : (s.setAcc b).result = s.result := rfl
@[simp] theorem State.setAcc_rcount (b : Byte) : (s.setAcc b).rcount = s.rcount := rfl
@[simp] theorem State.setAcc_rbyte (b : Byte) : (s.setAcc b).rbyte = s.rbyte := rfl
@[simp] theorem State.setAcc_rpos (b : Byte) : (s.setAcc b).rpos = s.rpos := rfl
@[simp] theorem State.setAcc_rstat (b : Byte) : (s.setAcc b).rstat = s.rstat := rfl
@[simp] theorem State.setAcc_errcode (b : Byte) : (s.setAcc b).errcode = s.errcode := rfl
@[simp] theorem State.setAcc_errbyte (b : Byte) : (s.setAcc b).errbyte = s.errbyte := rfl
@[simp] theorem State.setAcc_errexp (b : Byte) : (s.setAcc b).errexp = s.errexp := rfl
@[simp] theorem State.setAcc_errwrap (b : Byte) : (s.setAcc b).errwrap = s.errwrap := rfl
@[simp] theorem State.setAcc_errtok (b : Byte) : (s.setAcc b).errtok = s.errtok := rfl
@[simp] theorem State.setAcc_pin (b : Byte) : (s.setAcc b).pin = s.pin := rfl
@[simp] theorem State.setAcc_fbuf (b : Byte) : (s.setAcc b).fbuf = s.fbuf := rfl
@[simp] theorem State.setAcc_win (b : Byte) : (s.setAcc b).win = s.win := rfl
@[simp] theorem State.setAcc_dst (b : Byte) : (s.setAcc b).dst = s.dst := rfl
@[simp] theorem State.setAcc_pending (b : Byte) : (s.setAcc b).pending = s.pending := rfl
@[simp] theorem State.setAcc_attached (b : Byte) : (s.setAcc b).attached = s.attached := rfl
@[simp] theorem State.setAcc_port (b : Byte) : (s.setAcc b).port = s.port := rfl
@[simp] theorem State.setAcc_resetIn (b : Byte) : (s.setAcc b).resetIn = s.resetIn := rfl
@[simp] theorem State.setAcc_reads (b : Byte) : (s.setAcc b).reads = s.reads := rfl
@[simp] theorem State.setAcc_writeResults (b : Byte) : (s.setAcc b).writeResults = s.writeResults := rfl
@[simp] theorem State.setAcc_writes (b : Byte) : (s.setAcc b).writes = s.writes := rfl
@[simp] theorem State.setAcc_trace (b : Byte) : (s.setAcc b).trace = s.trace := rfl

/-! `State.setRbyte` -/

@[simp] theorem State.setRbyte_opstate (b : Byte) : (s.setRbyte b).opstate = s.opstate := rfl
@[simp] theorem State.setRbyte_acc (b : Byte) : (s.setRbyte b).acc = s.acc := rfl
@[simp] theorem State.setRbyte_pst (b : Byte) : (s.setRbyte b).pst = s.pst := rfl
@[simp] theorem State.setRbyte_lreg (b : Byte) : (s.setRbyte b).lreg = s.lreg := rfl
@[simp] theorem State.setRbyte_idx (b : Byte) : (s.setRbyte b).idx = s.idx := rfl
@[simp] theorem State.setRbyte_nread (b : Byte) : (s.setRbyte b).nread = s.nread := rfl
@[simp] theorem State.setRbyte_result (b : Byte) : (s.setRbyte b).result = s.result := rfl
@[simp] theorem State.setRbyte_rcount (b : Byte) : (s.setRbyte b).rcount = s.rcount := rfl
@[simp] theorem State.setRbyte_rbyte (b : Byte) : (s.setRbyte b).rbyte = some b := rfl
@[simp] theorem State.setRbyte_rpos (b : Byte) : (s.setRbyte b).rpos = s.rpos := rfl
@[simp] theorem State.setRbyte_rstat (b : Byte) : (s.setRbyte b).rstat = s.rstat := rfl
@[simp] theorem State.setRbyte_errcode (b : Byte) : (s.setRbyte b).errcode = s.errcode := rfl
@[simp] theorem State.setRbyte_errbyte (b : Byte) : (s.setRbyte b).errbyte = s.errbyte := rfl
@[simp] theorem State.setRbyte_errexp (b : Byte) : (s.setRbyte b).errexp = s.errexp := rfl
@[simp] theorem State.setRbyte_errwrap (b : Byte) : (s.setRbyte b).errwrap = s.errwrap := rfl
@[simp] theorem State.setRbyte_errtok (b : Byte) : (s.setRbyte b).errtok = s.errtok := rfl
@[simp] theorem State.setRbyte_pin (b : Byte) : (s.setRbyte b).pin = s.pin := rfl
@[simp] theorem State.setRbyte_fbuf (b : Byte) : (s.setRbyte b).fbuf = s.fbuf := rfl
@[simp] theorem State.setRbyte_win (b : Byte) : (s.setRbyte b).win = s.win := rfl
@[simp] theorem State.setRbyte_dst (b : Byte) : (s.setRbyte b).dst = s.dst := rfl
@[simp] theorem State.setRbyte_pending (b : Byte) : (s.setRbyte b).pending = s.pending := rfl
@[simp] theorem State.setRbyte_attached (b : Byte) : (s.setRbyte b).attached = s.attached := rfl
@[simp] theorem State.setRbyte_port (b : Byte) : (s.setRbyte b).port = s.port := rfl
@[simp] theorem State.setRbyte_resetIn (b : Byte) : (s.setRbyte b).resetIn = s.resetIn := rfl
@[simp] theorem State.setRbyte_reads (b : Byte) : (s.setRbyte b).reads = s.reads := rfl
@[simp] theorem State.setRbyte_writeResults (b : Byte) : (s.setRbyte b).writeResults = s.writeResults := rfl
@[simp] theorem State.setRbyte_writes (b : Byte) : (s.setRbyte b).writes = s.writes := rfl
@[simp] theorem State.setRbyte_trace (b : Byte) : (s.setRbyte b).trace = s.trace := rfl

/-! `State.setRpos` -/

@[simp] theorem State.setRpos_opstate (n : Nat) : (s.setRpos n).opstate = s.opstate := rfl
@[simp] theorem State.setRpos_acc (n : Nat) : (s.setRpos n).acc = s.acc := rfl
@[simp] theorem State.setRpos_pst (n : Nat) : (s.setRpos n).pst = s.pst := rfl
@[simp] theorem State.setRpos_lreg (n : Nat) : (s.setRpos n).lreg = s.lreg := rfl
@[simp] theorem State.setRpos_idx (n : Nat) : (s.setRpos n).idx = s.idx := rfl
@[simp] theorem State.setRpos_nread (n : Nat) : (s.setRpos n).nread = s.nread := rfl
@[simp] theorem State.setRpos_result (n : Nat) : (s.setRpos n).result = s.result := rfl
@[simp] theorem State.setRpos_rcount (n : Nat) : (s.setRpos n).rcount = s.rcount := rfl
@[simp] theorem State.setRpos_rbyte (n : Nat) : (s.setRpos n).rbyte = s.rbyte := rfl
@[simp] theorem State.setRpos_rpos (n : Nat) : (s.setRpos n).rpos = some n := rfl
@[simp] theorem State.setRpos_rstat (n : Nat) : (s.setRpos n).rstat = s.rstat := rfl
@[simp] theorem State.setRpos_errcode (n : Nat) : (s.setRpos n).errcode = s.errcode := rfl
@[simp] theorem State.setRpos_errbyte (n : Nat) : (s.setRpos n).errbyte = s.errbyte := rfl
@[simp] theorem State.setRpos_errexp (n : Nat) : (s.setRpos n).errexp = s.errexp := rfl
@[simp] theorem State.setRpos_errwrap (n : Nat) : (s.setRpos n).errwrap = s.errwrap := rfl
@[simp] theorem State.setRpos_errtok (n : Nat) : (s.setRpos n).errtok = s.errtok := rfl
@[simp] theorem State.setRpos_pin (n : Nat) : (s.setRpos n).pin = s.pin := rfl
@[simp] theorem State.setRpos_fbuf (n : Nat) : (s.setRpos n).fbuf = s.fbuf := rfl
@[simp] theorem State.setRpos_win (n : Nat) : (s.setRpos n).win = s.win := rfl
@[simp] theorem State.setRpos_dst (n : Nat) : (s.setRpos n).dst = s.dst := rfl
@[simp] theorem State.setRpos_pending (n : Nat) : (s.setRpos n).pending = s.pending := rfl
@[simp] theorem State.setRpos_attached (n : Nat) : (s.setRpos n).attached = s.attached := rfl
@[simp] theorem State.setRpos_port (n : Nat) : (s.setRpos n).port = s.port := rfl
@[simp] theorem State.setRpos_resetIn (n : Nat) : (s.setRpos n).resetIn = s.resetIn := rfl
@[simp] theorem State.setRpos_reads (n : Nat) : (s.setRpos n).reads = s.reads := rfl
@[simp] theorem State.setRpos_writeResults (n : Nat) : (s.setRpos n).writeResults = s.writeResults := rfl
@[simp] theorem State.setRpos_writes (n : Nat) : (s.setRpos n).writes = s.writes := rfl
@[simp] theorem State.setRpos_trace (n : Nat) : (s.setRpos n).trace = s.trace := rfl

/-! `State.setParser` -/

@[simp] theorem State.setParser_opstate (p : PState) (l : Byte) : (s.setParser p l).opstate = s.opstate := rfl
@[simp] theorem State.setParser_acc (p : PState) (l : Byte) : (s.setParser p l).acc = s.acc := rfl
@[simp] theorem State.setParser_pst (p : PState) (l : Byte) : (s.setParser p l).pst = p := rfl
@[simp] theorem State.setParser_lreg (p : PState) (l : Byte) : (s.setParser p l).lreg = l := rfl
@[simp] theorem State.setParser_idx (p : PState) (l : Byte) : (s.setParser p l).idx = s.idx := rfl
@[simp] theorem State.setParser_nread (p : PState) (l : Byte) : (s.setParser p l).nread = s.nread := rfl
@[simp] theorem State.setParser_result (p : PState) (l : Byte) : (s.setParser p l).result = s.result := rfl
@[simp] theorem State.setParser_rcount (p : PState) (l : Byte) : (s.setParser p l).rcount = s.rcount := rfl
@[simp] theorem State.setParser_rbyte (p : PState) (l : Byte) : (s.setParser p l).rbyte = s.rbyte := rfl
@[simp] theorem State.setParser_rpos (p : PState) (l : Byte) : (s.setParser p l).rpos = s.rpos := rfl
@[simp] theorem State.setParser_rstat (p : PState) (l : Byte) : (s.setParser p l).rstat = s.rstat := rfl
@[simp] theorem State.setParser_errcode (p : PState) (l : Byte) : (s.setParser p l).errcode = s.errcode := rfl
@[simp] theorem State.setParser_errbyte (p : PState) (l : Byte) : (s.setParser p l).errbyte = s.errbyte := rfl
@[simp] theorem State.setParser_errexp (p : PState) (l : Byte) : (s.setParser p l).errexp = s.errexp := rfl
@[simp] theorem State.setParser_errwrap (p : PState) (l : Byte) : (s.setParser p l).errwrap = s.errwrap := rfl
@[simp] theorem State.setParser_errtok (p : PState) (l : Byte) : (s.setParser p l).errtok = s.errtok := rfl
@[simp] theorem State.setParser_pin (p : PState) (l : Byte) : (s.setParser p l).pin = s.pin := rfl
@[simp] theorem State.setParser_fbuf (p : PState) (l : Byte) : (s.setParser p l).fbuf = s.fbuf := rfl
@[simp] theorem State.setParser_win (p : PState) (l : Byte) : (s.setParser p l).win = s.win := rfl
@[simp] theorem State.setParser_dst (p : PState) (l : Byte) : (s.setParser p l).dst = s.dst := rfl
@[simp] theorem State.setParser_pending (p : PState) (l : Byte) : (s.setParser p l).pending = s.pending := rfl
@[simp] theorem State.setParser_attached (p : PState) (l : Byte) : (s.setParser p l).attached = s.attached := rfl
@[simp] theorem State.setParser_port (p : PState) (l : Byte) : (s.setParser p l).port = s.port := rfl
@[simp] theorem State.setParser_resetIn (p : PState) (l : Byte) : (s.setParser p l).resetIn = s.resetIn := rfl
@[simp] theorem State.setParser_reads (p : PState) (l : Byte) : (s.setParser p l).reads = s.reads := rfl
@[simp] theorem State.setParser_writeResults (p : PState) (l : Byte) : (s.setParser p l).writeResults = s.writeResults := rfl
@[simp] theorem State.setParser_writes (p : PState) (l : Byte) : (s.setParser p l).writes = s.writes := rfl
@[simp] theorem State.setParser_trace (p : PState) (l : Byte) : (s.setParser p l).trace = s.trace := rfl

/-! `State.setFed` -/

@[simp] theorem State.setFed_opstate (f : Fed) : (s.setFed f).opstate = s.opstate := rfl
@[simp] theorem State.setFed_acc (f : Fed) : (s.setFed f).acc = s.acc := rfl
@[simp] theorem State.setFed_pst (f : Fed) : (s.setFed f).pst = f.parser.pst := rfl
@[simp] theorem State.setFed_lreg (f : Fed) : (s.setFed f).lreg = f.parser.lreg := rfl
@[simp] theorem State.setFed_idx (f : Fed) : (s.setFed f).idx = s.idx := rfl
@[simp] theorem State.setFed_nread (f : Fed) : (s.setFed f).nread = s.nread := rfl
@[simp] theorem State.setFed_result (f : Fed) : (s.setFed f).result = s.result := rfl
@[simp] theorem State.setFed_rcount (f : Fed) : (s.setFed f).rcount = s.rcount := rfl
@[simp] theorem State.setFed_rbyte (f : Fed) : (s.setFed f).rbyte = s.rbyte := rfl
@[simp] theorem State.setFed_rpos (f : Fed) : (s.setFed f).rpos = s.rpos := rfl
@[simp] theorem State.setFed_rstat (f : Fed) : (s.setFed f).rstat = s.rstat := rfl
@[simp] theorem State.setFed_errcode (f : Fed) : (s.setFed f).errcode = s.errcode := rfl
@[simp] theorem State.setFed_errbyte (f : Fed) : (s.setFed f).errbyte = s.errbyte := rfl
@[simp] theorem State.setFed_errexp (f : Fed) : (s.setFed f).errexp = s.errexp := rfl
@[simp] theorem State.setFed_errwrap (f : Fed) : (s.setFed f).errwrap = s.errwrap := rfl
@[simp] theorem State.setFed_errtok (f : Fed) : (s.setFed f).errtok = s.errtok := rfl
@[simp] theorem State.setFed_pin (f : Fed) : (s.setFed f).pin = s.pin := rfl
@[simp] theorem State.setFed_fbuf (f : Fed) : (s.setFed f).fbuf = s.fbuf := rfl
@[simp] theorem State.setFed_win (f : Fed) : (s.setFed f).win = s.win := rfl
@[simp] theorem State.setFed_dst (f : Fed) : (s.setFed f).dst = s.dst := rfl
@[simp] theorem State.setFed_pending (f : Fed) : (s.setFed f).pending = s.pending := rfl
@[simp] theorem State.setFed_attached (f : Fed) : (s.setFed f).attached = s.attached := rfl
@[simp] theorem State.setFed_port (f : Fed) : (s.setFed f).port = s.port := rfl
@[simp] theorem State.setFed_resetIn (f : Fed) : (s.setFed f).resetIn = s.resetIn := rfl
@[simp] theorem State.setFed_reads (f : Fed) : (s.setFed f).reads = s.reads := rfl
@[simp] theorem State.setFed_writeResults (f : Fed) : (s.setFed f).writeResults = s.writeResults := rfl
@[simp] theorem State.setFed_writes (f : Fed) : (s.setFed f).writes = s.writes := rfl
@[simp] theorem State.setFed_trace (f : Fed) : (s.setFed f).trace = s.trace := rfl

/-! `State.setIdx` -/

@[simp] theorem State.setIdx_opstate (n : Nat) : (s.setIdx n).opstate = s.opstate := rfl
@[simp] theorem State.setIdx_acc (n : Nat) : (s.setIdx n).acc = s.acc := rfl
@[simp] theorem State.setIdx_pst (n : Nat) : (s.setIdx n).pst = s.pst := rfl
@[simp] theorem State.setIdx_lreg (n : Nat) : (s.setIdx n).lreg = s.lreg := rfl
@[simp] theorem State.setIdx_idx (n : Nat) : (s.setIdx n).idx = n := rfl
@[simp] theorem State.setIdx_nread (n : Nat) : (s.setIdx n).nread = s.nread := rfl
@[simp] theorem State.setIdx_result (n : Nat) : (s.setIdx n).result = s.result := rfl
@[simp] theorem State.setIdx_rcount (n : Nat) : (s.setIdx n).rcount = s.rcount := rfl
@[simp] theorem State.setIdx_rbyte (n : Nat) : (s.setIdx n).rbyte = s.rbyte := rfl
@[simp] theorem State.setIdx_rpos (n : Nat) : (s.setIdx n).rpos = s.rpos := rfl
@[simp] theorem State.setIdx_rstat (n : Nat) : (s.setIdx n).rstat = s.rstat := rfl
@[simp] theorem State.setIdx_errcode (n : Nat) : (s.setIdx n).errcode = s.errcode := rfl
@[simp] theorem State.setIdx_errbyte (n : Nat) : (s.setIdx n).errbyte = s.errbyte := rfl
@[simp] theorem State.setIdx_errexp (n : Nat) : (s.setIdx n).errexp = s.errexp := rfl
@[simp] theorem State.setIdx_errwrap (n : Nat) : (s.setIdx n).errwrap = s.errwrap := rfl
@[simp] theorem State.setIdx_errtok (n : Nat) : (s.setIdx n).errtok = s.errtok := rfl
@[simp] theorem State.setIdx_pin (n : Nat) : (s.setIdx n).pin = s.pin := rfl
@[simp] theorem State.setIdx_fbuf (n : Nat) : (s.setIdx n).fbuf = s.fbuf := rfl
@[simp] theorem State.setIdx_win (n : Nat) : (s.setIdx n).win = s.win := rfl
@[simp] theorem State.setIdx_dst (n : Nat) : (s.setIdx n).dst = s.dst := rfl
@[simp] theorem State.setIdx_pending (n : Nat) : (s.setIdx n).pending = s.pending := rfl
@[simp] theorem State.setIdx_attached (n : Nat) : (s.setIdx n).attached = s.attached := rfl
@[simp] theorem State.setIdx_port (n : Nat) : (s.setIdx n).port = s.port := rfl
@[simp] theorem State.setIdx_resetIn (n : Nat) : (s.setIdx n).resetIn = s.resetIn := rfl
@[simp] theorem State.setIdx_reads (n : Nat) : (s.setIdx n).reads = s.reads := rfl
@[simp] theorem State.setIdx_writeResults (n : Nat) : (s.setIdx n).writeResults = s.writeResults := rfl
@[simp] theorem State.setIdx_writes (n : Nat) : (s.setIdx n).writes = s.writes := rfl
@[simp] theorem State.setIdx_trace (n : Nat) : (s.setIdx n).trace = s.trace := rfl

/-! `State.setWindow` -/

@[simp] theorem State.setWindow_opstate (ws : List Byte) : (s.setWindow ws).opstate = s.opstate := rfl
@[simp] theorem State.setWindow_acc (ws : List Byte) : (s.setWindow ws).acc = s.acc := rfl
@[simp] theorem State.setWindow_pst (ws : List Byte) : (s.setWindow ws).pst = s.pst := rfl
@[simp] theorem State.setWindow_lreg (ws : List Byte) : (s.setWindow ws).lreg = s.lreg := rfl
@[simp] theorem State.setWindow_idx (ws : List Byte) : (s.setWindow ws).idx = s.idx := rfl
@[simp] theorem State.setWindow_nread (ws : List Byte) : (s.setWindow ws).nread = ws.length := rfl
@[simp] theorem State.setWindow_result (ws : List Byte) : (s.setWindow ws).result = s.result := rfl
@[simp] theorem State.setWindow_rcount (ws : List Byte) : (s.setWindow ws).rcount = s.rcount := rfl
@[simp] theorem State.setWindow_rbyte (ws : List Byte) : (s.setWindow ws).rbyte = s.rbyte := rfl
@[simp] theorem State.setWindow_rpos (ws : List Byte) : (s.setWindow ws).rpos = s.rpos := rfl
@[simp] theorem State.setWindow_rstat (ws : List Byte) : (s.setWindow ws).rstat = s.rstat := rfl
@[simp] theorem State.setWindow_errcode (ws : List Byte) : (s.setWindow ws).errcode = s.errcode := rfl
@[simp] theorem State.setWindow_errbyte (ws : List Byte) : (s.setWindow ws).errbyte = s.errbyte := rfl
@[simp] theorem State.setWindow_errexp (ws : List Byte) : (s.setWindow ws).errexp = s.errexp := rfl
@[simp] theorem State.setWindow_errwrap (ws : List Byte) : (s.setWindow ws).errwrap = s.errwrap := rfl
@[simp] theorem State.setWindow_errtok (ws : List Byte) : (s.setWindow ws).errtok = s.errtok := rfl
@[simp] theorem State.setWindow_pin (ws : List Byte) : (s.setWindow ws).pin = s.pin := rfl
@[simp] theorem State.setWindow_fbuf (ws : List Byte) : (s.setWindow ws).fbuf = s.fbuf := rfl
@[simp] theorem State.setWindow_win (ws : List Byte) : (s.setWindow ws).win = Memory.ofBytes ws := rfl
@[simp] theorem State.setWindow_dst (ws : List Byte) : (s.setWindow ws).dst = s.dst := rfl
@[simp] theorem State.setWindow_pending (ws : List Byte) : (s.setWindow ws).pending = s.pending := rfl
@[simp] theorem State.setWindow_attached (ws : List Byte) : (s.setWindow ws).attached = s.attached := rfl
@[simp] theorem State.setWindow_port (ws : List Byte) : (s.setWindow ws).port = s.port := rfl
@[simp] theorem State.setWindow_resetIn (ws : List Byte) : (s.setWindow ws).resetIn = s.resetIn := rfl
@[simp] theorem State.setWindow_reads (ws : List Byte) : (s.setWindow ws).reads = s.reads := rfl
@[simp] theorem State.setWindow_writeResults (ws : List Byte) : (s.setWindow ws).writeResults = s.writeResults := rfl
@[simp] theorem State.setWindow_writes (ws : List Byte) : (s.setWindow ws).writes = s.writes := rfl
@[simp] theorem State.setWindow_trace (ws : List Byte) : (s.setWindow ws).trace = s.trace := rfl

/-! `State.setFrame` -/

@[simp] theorem State.setFrame_opstate (fr : List Byte) : (s.setFrame fr).opstate = s.opstate := rfl
@[simp] theorem State.setFrame_acc (fr : List Byte) : (s.setFrame fr).acc = s.acc := rfl
@[simp] theorem State.setFrame_pst (fr : List Byte) : (s.setFrame fr).pst = s.pst := rfl
@[simp] theorem State.setFrame_lreg (fr : List Byte) : (s.setFrame fr).lreg = s.lreg := rfl
@[simp] theorem State.setFrame_idx (fr : List Byte) : (s.setFrame fr).idx = s.idx := rfl
@[simp] theorem State.setFrame_nread (fr : List Byte) : (s.setFrame fr).nread = s.nread := rfl
@[simp] theorem State.setFrame_result (fr : List Byte) : (s.setFrame fr).result = s.result := rfl
@[simp] theorem State.setFrame_rcount (fr : List Byte) : (s.setFrame fr).rcount = s.rcount := rfl
@[simp] theorem State.setFrame_rbyte (fr : List Byte) : (s.setFrame fr).rbyte = s.rbyte := rfl
@[simp] theorem State.setFrame_rpos (fr : List Byte) : (s.setFrame fr).rpos = s.rpos := rfl
@[simp] theorem State.setFrame_rstat (fr : List Byte) : (s.setFrame fr).rstat = s.rstat := rfl
@[simp] theorem State.setFrame_errcode (fr : List Byte) : (s.setFrame fr).errcode = s.errcode := rfl
@[simp] theorem State.setFrame_errbyte (fr : List Byte) : (s.setFrame fr).errbyte = s.errbyte := rfl
@[simp] theorem State.setFrame_errexp (fr : List Byte) : (s.setFrame fr).errexp = s.errexp := rfl
@[simp] theorem State.setFrame_errwrap (fr : List Byte) : (s.setFrame fr).errwrap = s.errwrap := rfl
@[simp] theorem State.setFrame_errtok (fr : List Byte) : (s.setFrame fr).errtok = s.errtok := rfl
@[simp] theorem State.setFrame_pin (fr : List Byte) : (s.setFrame fr).pin = s.pin := rfl
@[simp] theorem State.setFrame_fbuf (fr : List Byte) : (s.setFrame fr).fbuf = Memory.ofBytes fr := rfl
@[simp] theorem State.setFrame_win (fr : List Byte) : (s.setFrame fr).win = s.win := rfl
@[simp] theorem State.setFrame_dst (fr : List Byte) : (s.setFrame fr).dst = s.dst := rfl
@[simp] theorem State.setFrame_pending (fr : List Byte) : (s.setFrame fr).pending = s.pending := rfl
@[simp] theorem State.setFrame_attached (fr : List Byte) : (s.setFrame fr).attached = s.attached := rfl
@[simp] theorem State.setFrame_port (fr : List Byte) : (s.setFrame fr).port = s.port := rfl
@[simp] theorem State.setFrame_resetIn (fr : List Byte) : (s.setFrame fr).resetIn = s.resetIn := rfl
@[simp] theorem State.setFrame_reads (fr : List Byte) : (s.setFrame fr).reads = s.reads := rfl
@[simp] theorem State.setFrame_writeResults (fr : List Byte) : (s.setFrame fr).writeResults = s.writeResults := rfl
@[simp] theorem State.setFrame_writes (fr : List Byte) : (s.setFrame fr).writes = s.writes := rfl
@[simp] theorem State.setFrame_trace (fr : List Byte) : (s.setFrame fr).trace = s.trace := rfl

/-! `State.deliver` -/

@[simp] theorem State.deliver_opstate (bs : List Byte) : (s.deliver bs).opstate = s.opstate := rfl
@[simp] theorem State.deliver_acc (bs : List Byte) : (s.deliver bs).acc = s.acc := rfl
@[simp] theorem State.deliver_pst (bs : List Byte) : (s.deliver bs).pst = s.pst := rfl
@[simp] theorem State.deliver_lreg (bs : List Byte) : (s.deliver bs).lreg = s.lreg := rfl
@[simp] theorem State.deliver_idx (bs : List Byte) : (s.deliver bs).idx = s.idx := rfl
@[simp] theorem State.deliver_nread (bs : List Byte) : (s.deliver bs).nread = s.nread := rfl
@[simp] theorem State.deliver_result (bs : List Byte) : (s.deliver bs).result = s.result := rfl
@[simp] theorem State.deliver_rcount (bs : List Byte) : (s.deliver bs).rcount = some (BitVec.ofNat 8 bs.length) := rfl
@[simp] theorem State.deliver_rbyte (bs : List Byte) : (s.deliver bs).rbyte = s.rbyte := rfl
@[simp] theorem State.deliver_rpos (bs : List Byte) : (s.deliver bs).rpos = s.rpos := rfl
@[simp] theorem State.deliver_rstat (bs : List Byte) : (s.deliver bs).rstat = s.rstat := rfl
@[simp] theorem State.deliver_errcode (bs : List Byte) : (s.deliver bs).errcode = s.errcode := rfl
@[simp] theorem State.deliver_errbyte (bs : List Byte) : (s.deliver bs).errbyte = s.errbyte := rfl
@[simp] theorem State.deliver_errexp (bs : List Byte) : (s.deliver bs).errexp = s.errexp := rfl
@[simp] theorem State.deliver_errwrap (bs : List Byte) : (s.deliver bs).errwrap = s.errwrap := rfl
@[simp] theorem State.deliver_errtok (bs : List Byte) : (s.deliver bs).errtok = s.errtok := rfl
@[simp] theorem State.deliver_pin (bs : List Byte) : (s.deliver bs).pin = s.pin := rfl
@[simp] theorem State.deliver_fbuf (bs : List Byte) : (s.deliver bs).fbuf = s.fbuf := rfl
@[simp] theorem State.deliver_win (bs : List Byte) : (s.deliver bs).win = s.win := rfl
@[simp] theorem State.deliver_dst (bs : List Byte) : (s.deliver bs).dst = s.dst.writeBytes 0 bs := rfl
@[simp] theorem State.deliver_pending (bs : List Byte) : (s.deliver bs).pending = s.pending := rfl
@[simp] theorem State.deliver_attached (bs : List Byte) : (s.deliver bs).attached = s.attached := rfl
@[simp] theorem State.deliver_port (bs : List Byte) : (s.deliver bs).port = s.port := rfl
@[simp] theorem State.deliver_resetIn (bs : List Byte) : (s.deliver bs).resetIn = s.resetIn := rfl
@[simp] theorem State.deliver_reads (bs : List Byte) : (s.deliver bs).reads = s.reads := rfl
@[simp] theorem State.deliver_writeResults (bs : List Byte) : (s.deliver bs).writeResults = s.writeResults := rfl
@[simp] theorem State.deliver_writes (bs : List Byte) : (s.deliver bs).writes = s.writes := rfl
@[simp] theorem State.deliver_trace (bs : List Byte) : (s.deliver bs).trace = s.trace := rfl

/-! `State.busWrite` -/

@[simp] theorem State.busWrite_opstate (xs : List Byte) : (s.busWrite xs).opstate = s.opstate := rfl
@[simp] theorem State.busWrite_acc (xs : List Byte) : (s.busWrite xs).acc = s.acc := rfl
@[simp] theorem State.busWrite_pst (xs : List Byte) : (s.busWrite xs).pst = s.pst := rfl
@[simp] theorem State.busWrite_lreg (xs : List Byte) : (s.busWrite xs).lreg = s.lreg := rfl
@[simp] theorem State.busWrite_idx (xs : List Byte) : (s.busWrite xs).idx = s.idx := rfl
@[simp] theorem State.busWrite_nread (xs : List Byte) : (s.busWrite xs).nread = s.nread := rfl
@[simp] theorem State.busWrite_result (xs : List Byte) : (s.busWrite xs).result = s.result := rfl
@[simp] theorem State.busWrite_rcount (xs : List Byte) : (s.busWrite xs).rcount = s.rcount := rfl
@[simp] theorem State.busWrite_rbyte (xs : List Byte) : (s.busWrite xs).rbyte = s.rbyte := rfl
@[simp] theorem State.busWrite_rpos (xs : List Byte) : (s.busWrite xs).rpos = s.rpos := rfl
@[simp] theorem State.busWrite_rstat (xs : List Byte) : (s.busWrite xs).rstat = s.rstat := rfl
@[simp] theorem State.busWrite_errcode (xs : List Byte) : (s.busWrite xs).errcode = s.errcode := rfl
@[simp] theorem State.busWrite_errbyte (xs : List Byte) : (s.busWrite xs).errbyte = s.errbyte := rfl
@[simp] theorem State.busWrite_errexp (xs : List Byte) : (s.busWrite xs).errexp = s.errexp := rfl
@[simp] theorem State.busWrite_errwrap (xs : List Byte) : (s.busWrite xs).errwrap = s.errwrap := rfl
@[simp] theorem State.busWrite_errtok (xs : List Byte) : (s.busWrite xs).errtok = s.errtok := rfl
@[simp] theorem State.busWrite_pin (xs : List Byte) : (s.busWrite xs).pin = s.pin := rfl
@[simp] theorem State.busWrite_fbuf (xs : List Byte) : (s.busWrite xs).fbuf = s.fbuf := rfl
@[simp] theorem State.busWrite_win (xs : List Byte) : (s.busWrite xs).win = s.win := rfl
@[simp] theorem State.busWrite_dst (xs : List Byte) : (s.busWrite xs).dst = s.dst := rfl
@[simp] theorem State.busWrite_pending (xs : List Byte) : (s.busWrite xs).pending = s.pending := rfl
@[simp] theorem State.busWrite_attached (xs : List Byte) : (s.busWrite xs).attached = s.attached := rfl
@[simp] theorem State.busWrite_port (xs : List Byte) : (s.busWrite xs).port = s.port := rfl
@[simp] theorem State.busWrite_resetIn (xs : List Byte) : (s.busWrite xs).resetIn = s.resetIn := rfl
@[simp] theorem State.busWrite_reads (xs : List Byte) : (s.busWrite xs).reads = s.reads := rfl
@[simp] theorem State.busWrite_writeResults (xs : List Byte) : (s.busWrite xs).writeResults = s.writeResults.tail := rfl
@[simp] theorem State.busWrite_writes (xs : List Byte) : (s.busWrite xs).writes = s.writes + 1 := rfl
@[simp] theorem State.busWrite_trace (xs : List Byte) : (s.busWrite xs).trace = s.trace ++ [.write xs s.drawWrite] := rfl

/-! `State.polled` -/

@[simp] theorem State.polled_opstate (made left : List ReadAttempt) : (s.polled made left).opstate = s.opstate := rfl
@[simp] theorem State.polled_acc (made left : List ReadAttempt) : (s.polled made left).acc = s.acc := rfl
@[simp] theorem State.polled_pst (made left : List ReadAttempt) : (s.polled made left).pst = s.pst := rfl
@[simp] theorem State.polled_lreg (made left : List ReadAttempt) : (s.polled made left).lreg = s.lreg := rfl
@[simp] theorem State.polled_idx (made left : List ReadAttempt) : (s.polled made left).idx = s.idx := rfl
@[simp] theorem State.polled_nread (made left : List ReadAttempt) : (s.polled made left).nread = s.nread := rfl
@[simp] theorem State.polled_result (made left : List ReadAttempt) : (s.polled made left).result = s.result := rfl
@[simp] theorem State.polled_rcount (made left : List ReadAttempt) : (s.polled made left).rcount = s.rcount := rfl
@[simp] theorem State.polled_rbyte (made left : List ReadAttempt) : (s.polled made left).rbyte = s.rbyte := rfl
@[simp] theorem State.polled_rpos (made left : List ReadAttempt) : (s.polled made left).rpos = s.rpos := rfl
@[simp] theorem State.polled_rstat (made left : List ReadAttempt) : (s.polled made left).rstat = s.rstat := rfl
@[simp] theorem State.polled_errcode (made left : List ReadAttempt) : (s.polled made left).errcode = s.errcode := rfl
@[simp] theorem State.polled_errbyte (made left : List ReadAttempt) : (s.polled made left).errbyte = s.errbyte := rfl
@[simp] theorem State.polled_errexp (made left : List ReadAttempt) : (s.polled made left).errexp = s.errexp := rfl
@[simp] theorem State.polled_errwrap (made left : List ReadAttempt) : (s.polled made left).errwrap = s.errwrap := rfl
@[simp] theorem State.polled_errtok (made left : List ReadAttempt) : (s.polled made left).errtok = s.errtok := rfl
@[simp] theorem State.polled_pin (made left : List ReadAttempt) : (s.polled made left).pin = s.pin := rfl
@[simp] theorem State.polled_fbuf (made left : List ReadAttempt) : (s.polled made left).fbuf = s.fbuf := rfl
@[simp] theorem State.polled_win (made left : List ReadAttempt) : (s.polled made left).win = s.win := rfl
@[simp] theorem State.polled_dst (made left : List ReadAttempt) : (s.polled made left).dst = s.dst := rfl
@[simp] theorem State.polled_pending (made left : List ReadAttempt) : (s.polled made left).pending = s.pending := rfl
@[simp] theorem State.polled_attached (made left : List ReadAttempt) : (s.polled made left).attached = s.attached := rfl
@[simp] theorem State.polled_port (made left : List ReadAttempt) : (s.polled made left).port = s.port := rfl
@[simp] theorem State.polled_resetIn (made left : List ReadAttempt) : (s.polled made left).resetIn = s.resetIn := rfl
@[simp] theorem State.polled_reads (made left : List ReadAttempt) : (s.polled made left).reads = left := rfl
@[simp] theorem State.polled_writeResults (made left : List ReadAttempt) : (s.polled made left).writeResults = s.writeResults := rfl
@[simp] theorem State.polled_writes (made left : List ReadAttempt) : (s.polled made left).writes = s.writes := rfl
@[simp] theorem State.polled_trace (made left : List ReadAttempt) : (s.polled made left).trace = s.trace ++ made.map .read := rfl

/-! `State.pastDeadline` -/

@[simp] theorem State.pastDeadline_opstate (t : Duration) : (s.pastDeadline t).opstate = s.opstate := rfl
@[simp] theorem State.pastDeadline_acc (t : Duration) : (s.pastDeadline t).acc = s.acc := rfl
@[simp] theorem State.pastDeadline_pst (t : Duration) : (s.pastDeadline t).pst = s.pst := rfl
@[simp] theorem State.pastDeadline_lreg (t : Duration) : (s.pastDeadline t).lreg = s.lreg := rfl
@[simp] theorem State.pastDeadline_idx (t : Duration) : (s.pastDeadline t).idx = s.idx := rfl
@[simp] theorem State.pastDeadline_nread (t : Duration) : (s.pastDeadline t).nread = s.nread := rfl
@[simp] theorem State.pastDeadline_result (t : Duration) : (s.pastDeadline t).result = s.result := rfl
@[simp] theorem State.pastDeadline_rcount (t : Duration) : (s.pastDeadline t).rcount = s.rcount := rfl
@[simp] theorem State.pastDeadline_rbyte (t : Duration) : (s.pastDeadline t).rbyte = s.rbyte := rfl
@[simp] theorem State.pastDeadline_rpos (t : Duration) : (s.pastDeadline t).rpos = s.rpos := rfl
@[simp] theorem State.pastDeadline_rstat (t : Duration) : (s.pastDeadline t).rstat = s.rstat := rfl
@[simp] theorem State.pastDeadline_errcode (t : Duration) : (s.pastDeadline t).errcode = s.errcode := rfl
@[simp] theorem State.pastDeadline_errbyte (t : Duration) : (s.pastDeadline t).errbyte = s.errbyte := rfl
@[simp] theorem State.pastDeadline_errexp (t : Duration) : (s.pastDeadline t).errexp = s.errexp := rfl
@[simp] theorem State.pastDeadline_errwrap (t : Duration) : (s.pastDeadline t).errwrap = s.errwrap := rfl
@[simp] theorem State.pastDeadline_errtok (t : Duration) : (s.pastDeadline t).errtok = s.errtok := rfl
@[simp] theorem State.pastDeadline_pin (t : Duration) : (s.pastDeadline t).pin = s.pin := rfl
@[simp] theorem State.pastDeadline_fbuf (t : Duration) : (s.pastDeadline t).fbuf = s.fbuf := rfl
@[simp] theorem State.pastDeadline_win (t : Duration) : (s.pastDeadline t).win = s.win := rfl
@[simp] theorem State.pastDeadline_dst (t : Duration) : (s.pastDeadline t).dst = s.dst := rfl
@[simp] theorem State.pastDeadline_pending (t : Duration) : (s.pastDeadline t).pending = s.pending := rfl
@[simp] theorem State.pastDeadline_attached (t : Duration) : (s.pastDeadline t).attached = s.attached := rfl
@[simp] theorem State.pastDeadline_port (t : Duration) : (s.pastDeadline t).port = s.port := rfl
@[simp] theorem State.pastDeadline_resetIn (t : Duration) : (s.pastDeadline t).resetIn = s.resetIn := rfl
@[simp] theorem State.pastDeadline_reads (t : Duration) : (s.pastDeadline t).reads = s.reads := rfl
@[simp] theorem State.pastDeadline_writeResults (t : Duration) : (s.pastDeadline t).writeResults = s.writeResults := rfl
@[simp] theorem State.pastDeadline_writes (t : Duration) : (s.pastDeadline t).writes = s.writes := rfl
@[simp] theorem State.pastDeadline_trace (t : Duration) : (s.pastDeadline t).trace = s.trace ++ [.unready t] := rfl

/-! `State.wait` -/

@[simp] theorem State.wait_opstate (p : Pending) : (s.wait p).opstate = .busy := rfl
@[simp] theorem State.wait_acc (p : Pending) : (s.wait p).acc = s.acc := rfl
@[simp] theorem State.wait_pst (p : Pending) : (s.wait p).pst = s.pst := rfl
@[simp] theorem State.wait_lreg (p : Pending) : (s.wait p).lreg = s.lreg := rfl
@[simp] theorem State.wait_idx (p : Pending) : (s.wait p).idx = s.idx := rfl
@[simp] theorem State.wait_nread (p : Pending) : (s.wait p).nread = s.nread := rfl
@[simp] theorem State.wait_result (p : Pending) : (s.wait p).result = s.result := rfl
@[simp] theorem State.wait_rcount (p : Pending) : (s.wait p).rcount = s.rcount := rfl
@[simp] theorem State.wait_rbyte (p : Pending) : (s.wait p).rbyte = s.rbyte := rfl
@[simp] theorem State.wait_rpos (p : Pending) : (s.wait p).rpos = s.rpos := rfl
@[simp] theorem State.wait_rstat (p : Pending) : (s.wait p).rstat = s.rstat := rfl
@[simp] theorem State.wait_errcode (p : Pending) : (s.wait p).errcode = s.errcode := rfl
@[simp] theorem State.wait_errbyte (p : Pending) : (s.wait p).errbyte = s.errbyte := rfl
@[simp] theorem State.wait_errexp (p : Pending) : (s.wait p).errexp = s.errexp := rfl
@[simp] theorem State.wait_errwrap (p : Pending) : (s.wait p).errwrap = s.errwrap := rfl
@[simp] theorem State.wait_errtok (p : Pending) : (s.wait p).errtok = s.errtok := rfl
@[simp] theorem State.wait_pin (p : Pending) : (s.wait p).pin = s.pin := rfl
@[simp] theorem State.wait_fbuf (p : Pending) : (s.wait p).fbuf = s.fbuf := rfl
@[simp] theorem State.wait_win (p : Pending) : (s.wait p).win = s.win := rfl
@[simp] theorem State.wait_dst (p : Pending) : (s.wait p).dst = s.dst := rfl
@[simp] theorem State.wait_pending (p : Pending) : (s.wait p).pending = some p := rfl
@[simp] theorem State.wait_attached (p : Pending) : (s.wait p).attached = s.attached := rfl
@[simp] theorem State.wait_port (p : Pending) : (s.wait p).port = s.port := rfl
@[simp] theorem State.wait_resetIn (p : Pending) : (s.wait p).resetIn = s.resetIn := rfl
@[simp] theorem State.wait_reads (p : Pending) : (s.wait p).reads = s.reads := rfl
@[simp] theorem State.wait_writeResults (p : Pending) : (s.wait p).writeResults = s.writeResults := rfl
@[simp] theorem State.wait_writes (p : Pending) : (s.wait p).writes = s.writes := rfl
@[simp] theorem State.wait_trace (p : Pending) : (s.wait p).trace = s.trace := rfl

/-! `State.release` -/

@[simp] theorem State.release_opstate : (s.release).opstate = s.opstate := rfl
@[simp] theorem State.release_acc : (s.release).acc = s.acc := rfl
@[simp] theorem State.release_pst : (s.release).pst = s.pst := rfl
@[simp] theorem State.release_lreg : (s.release).lreg = s.lreg := rfl
@[simp] theorem State.release_idx : (s.release).idx = s.idx := rfl
@[simp] theorem State.release_nread : (s.release).nread = s.nread := rfl
@[simp] theorem State.release_result : (s.release).result = s.result := rfl
@[simp] theorem State.release_rcount : (s.release).rcount = s.rcount := rfl
@[simp] theorem State.release_rbyte : (s.release).rbyte = s.rbyte := rfl
@[simp] theorem State.release_rpos : (s.release).rpos = s.rpos := rfl
@[simp] theorem State.release_rstat : (s.release).rstat = s.rstat := rfl
@[simp] theorem State.release_errcode : (s.release).errcode = s.errcode := rfl
@[simp] theorem State.release_errbyte : (s.release).errbyte = s.errbyte := rfl
@[simp] theorem State.release_errexp : (s.release).errexp = s.errexp := rfl
@[simp] theorem State.release_errwrap : (s.release).errwrap = s.errwrap := rfl
@[simp] theorem State.release_errtok : (s.release).errtok = s.errtok := rfl
@[simp] theorem State.release_pin : (s.release).pin = s.pin := rfl
@[simp] theorem State.release_fbuf : (s.release).fbuf = s.fbuf := rfl
@[simp] theorem State.release_win : (s.release).win = s.win := rfl
@[simp] theorem State.release_dst : (s.release).dst = s.dst := rfl
@[simp] theorem State.release_pending : (s.release).pending = s.pending := rfl
@[simp] theorem State.release_attached : (s.release).attached = s.attached := rfl
@[simp] theorem State.release_port : (s.release).port = s.port := rfl
@[simp] theorem State.release_resetIn : (s.release).resetIn = none := rfl
@[simp] theorem State.release_reads : (s.release).reads = s.reads := rfl
@[simp] theorem State.release_writeResults : (s.release).writeResults = s.writeResults := rfl
@[simp] theorem State.release_writes : (s.release).writes = s.writes := rfl
@[simp] theorem State.release_trace : (s.release).trace = s.trace := rfl

/-! `State.brokenOff` -/

@[simp] theorem State.brokenOff_opstate (n : Nat) (t : State) : (s.brokenOff n t).opstate = s.opstate := rfl
@[simp] theorem State.brokenOff_acc (n : Nat) (t : State) : (s.brokenOff n t).acc = s.acc := rfl
@[simp] theorem State.brokenOff_pst (n : Nat) (t : State) : (s.brokenOff n t).pst = s.pst := rfl
@[simp] theorem State.brokenOff_lreg (n : Nat) (t : State) : (s.brokenOff n t).lreg = s.lreg := rfl
@[simp] theorem State.brokenOff_idx (n : Nat) (t : State) : (s.brokenOff n t).idx = s.idx := rfl
@[simp] theorem State.brokenOff_nread (n : Nat) (t : State) : (s.brokenOff n t).nread = s.nread := rfl
@[simp] theorem State.brokenOff_result (n : Nat) (t : State) : (s.brokenOff n t).result = s.result := rfl
@[simp] theorem State.brokenOff_rcount (n : Nat) (t : State) : (s.brokenOff n t).rcount = s.rcount := rfl
@[simp] theorem State.brokenOff_rbyte (n : Nat) (t : State) : (s.brokenOff n t).rbyte = s.rbyte := rfl
@[simp] theorem State.brokenOff_rpos (n : Nat) (t : State) : (s.brokenOff n t).rpos = s.rpos := rfl
@[simp] theorem State.brokenOff_rstat (n : Nat) (t : State) : (s.brokenOff n t).rstat = s.rstat := rfl
@[simp] theorem State.brokenOff_errcode (n : Nat) (t : State) : (s.brokenOff n t).errcode = s.errcode := rfl
@[simp] theorem State.brokenOff_errbyte (n : Nat) (t : State) : (s.brokenOff n t).errbyte = s.errbyte := rfl
@[simp] theorem State.brokenOff_errexp (n : Nat) (t : State) : (s.brokenOff n t).errexp = s.errexp := rfl
@[simp] theorem State.brokenOff_errwrap (n : Nat) (t : State) : (s.brokenOff n t).errwrap = s.errwrap := rfl
@[simp] theorem State.brokenOff_errtok (n : Nat) (t : State) : (s.brokenOff n t).errtok = s.errtok := rfl
@[simp] theorem State.brokenOff_pin (n : Nat) (t : State) : (s.brokenOff n t).pin = t.pin := rfl
@[simp] theorem State.brokenOff_fbuf (n : Nat) (t : State) : (s.brokenOff n t).fbuf = s.fbuf := rfl
@[simp] theorem State.brokenOff_win (n : Nat) (t : State) : (s.brokenOff n t).win = s.win := rfl
@[simp] theorem State.brokenOff_dst (n : Nat) (t : State) : (s.brokenOff n t).dst = Memory.splice (n - (t.trace.drop s.trace.length).length) t.dst s.dst := rfl
@[simp] theorem State.brokenOff_pending (n : Nat) (t : State) : (s.brokenOff n t).pending = s.pending := rfl
@[simp] theorem State.brokenOff_attached (n : Nat) (t : State) : (s.brokenOff n t).attached = s.attached := rfl
@[simp] theorem State.brokenOff_port (n : Nat) (t : State) : (s.brokenOff n t).port = t.port := rfl
@[simp] theorem State.brokenOff_resetIn (n : Nat) (t : State) : (s.brokenOff n t).resetIn = s.resetIn := rfl
@[simp] theorem State.brokenOff_reads (n : Nat) (t : State) : (s.brokenOff n t).reads = s.reads.drop (readsIn ((t.trace.drop s.trace.length).take n)) := rfl
@[simp] theorem State.brokenOff_writeResults (n : Nat) (t : State) : (s.brokenOff n t).writeResults = s.writeResults.drop (writesIn ((t.trace.drop s.trace.length).take n)) := rfl
@[simp] theorem State.brokenOff_writes (n : Nat) (t : State) : (s.brokenOff n t).writes = s.writes + writesIn ((t.trace.drop s.trace.length).take n) := rfl
@[simp] theorem State.brokenOff_trace (n : Nat) (t : State) : (s.brokenOff n t).trace = s.trace ++ (t.trace.drop s.trace.length).take n := rfl

/-! `State.takeCommand` -/

@[simp] theorem State.takeCommand_opstate (rest : List Command) : (s.takeCommand rest).opstate = s.opstate := rfl
@[simp] theorem State.takeCommand_acc (rest : List Command) : (s.takeCommand rest).acc = s.acc := rfl
@[simp] theorem State.takeCommand_pst (rest : List Command) : (s.takeCommand rest).pst = s.pst := rfl
@[simp] theorem State.takeCommand_lreg (rest : List Command) : (s.takeCommand rest).lreg = s.lreg := rfl
@[simp] theorem State.takeCommand_idx (rest : List Command) : (s.takeCommand rest).idx = s.idx := rfl
@[simp] theorem State.takeCommand_nread (rest : List Command) : (s.takeCommand rest).nread = s.nread := rfl
@[simp] theorem State.takeCommand_result (rest : List Command) : (s.takeCommand rest).result = s.result := rfl
@[simp] theorem State.takeCommand_rcount (rest : List Command) : (s.takeCommand rest).rcount = s.rcount := rfl
@[simp] theorem State.takeCommand_rbyte (rest : List Command) : (s.takeCommand rest).rbyte = s.rbyte := rfl
@[simp] theorem State.takeCommand_rpos (rest : List Command) : (s.takeCommand rest).rpos = s.rpos := rfl
@[simp] theorem State.takeCommand_rstat (rest : List Command) : (s.takeCommand rest).rstat = s.rstat := rfl
@[simp] theorem State.takeCommand_errcode (rest : List Command) : (s.takeCommand rest).errcode = s.errcode := rfl
@[simp] theorem State.takeCommand_errbyte (rest : List Command) : (s.takeCommand rest).errbyte = s.errbyte := rfl
@[simp] theorem State.takeCommand_errexp (rest : List Command) : (s.takeCommand rest).errexp = s.errexp := rfl
@[simp] theorem State.takeCommand_errwrap (rest : List Command) : (s.takeCommand rest).errwrap = s.errwrap := rfl
@[simp] theorem State.takeCommand_errtok (rest : List Command) : (s.takeCommand rest).errtok = s.errtok := rfl
@[simp] theorem State.takeCommand_pin (rest : List Command) : (s.takeCommand rest).pin = s.pin := rfl
@[simp] theorem State.takeCommand_fbuf (rest : List Command) : (s.takeCommand rest).fbuf = s.fbuf := rfl
@[simp] theorem State.takeCommand_win (rest : List Command) : (s.takeCommand rest).win = s.win := rfl
@[simp] theorem State.takeCommand_dst (rest : List Command) : (s.takeCommand rest).dst = s.dst := rfl
@[simp] theorem State.takeCommand_pending (rest : List Command) : (s.takeCommand rest).pending = s.pending := rfl
@[simp] theorem State.takeCommand_attached (rest : List Command) : (s.takeCommand rest).attached = s.attached := rfl
@[simp] theorem State.takeCommand_port (rest : List Command) : (s.takeCommand rest).port = rest := rfl
@[simp] theorem State.takeCommand_resetIn (rest : List Command) : (s.takeCommand rest).resetIn = s.resetIn := rfl
@[simp] theorem State.takeCommand_reads (rest : List Command) : (s.takeCommand rest).reads = s.reads := rfl
@[simp] theorem State.takeCommand_writeResults (rest : List Command) : (s.takeCommand rest).writeResults = s.writeResults := rfl
@[simp] theorem State.takeCommand_writes (rest : List Command) : (s.takeCommand rest).writes = s.writes := rfl
@[simp] theorem State.takeCommand_trace (rest : List Command) : (s.takeCommand rest).trace = s.trace := rfl

/-! `State.present` -/

@[simp] theorem State.present_opstate (c : Command) : (s.present c).opstate = .idle := rfl
@[simp] theorem State.present_acc (c : Command) : (s.present c).acc = s.acc := rfl
@[simp] theorem State.present_pst (c : Command) : (s.present c).pst = s.pst := rfl
@[simp] theorem State.present_lreg (c : Command) : (s.present c).lreg = s.lreg := rfl
@[simp] theorem State.present_idx (c : Command) : (s.present c).idx = s.idx := rfl
@[simp] theorem State.present_nread (c : Command) : (s.present c).nread = s.nread := rfl
@[simp] theorem State.present_result (c : Command) : (s.present c).result = s.result := rfl
@[simp] theorem State.present_rcount (c : Command) : (s.present c).rcount = s.rcount := rfl
@[simp] theorem State.present_rbyte (c : Command) : (s.present c).rbyte = s.rbyte := rfl
@[simp] theorem State.present_rpos (c : Command) : (s.present c).rpos = s.rpos := rfl
@[simp] theorem State.present_rstat (c : Command) : (s.present c).rstat = s.rstat := rfl
@[simp] theorem State.present_errcode (c : Command) : (s.present c).errcode = s.errcode := rfl
@[simp] theorem State.present_errbyte (c : Command) : (s.present c).errbyte = s.errbyte := rfl
@[simp] theorem State.present_errexp (c : Command) : (s.present c).errexp = s.errexp := rfl
@[simp] theorem State.present_errwrap (c : Command) : (s.present c).errwrap = s.errwrap := rfl
@[simp] theorem State.present_errtok (c : Command) : (s.present c).errtok = s.errtok := rfl
@[simp] theorem State.present_pin (c : Command) : (s.present c).pin = s.pin := rfl
@[simp] theorem State.present_fbuf (c : Command) : (s.present c).fbuf = s.fbuf := rfl
@[simp] theorem State.present_win (c : Command) : (s.present c).win = s.win := rfl
@[simp] theorem State.present_dst (c : Command) : (s.present c).dst = s.dst := rfl
@[simp] theorem State.present_pending (c : Command) : (s.present c).pending = none := rfl
@[simp] theorem State.present_attached (c : Command) : (s.present c).attached = s.attached := rfl
@[simp] theorem State.present_port (c : Command) : (s.present c).port = c :: s.port := rfl
@[simp] theorem State.present_resetIn (c : Command) : (s.present c).resetIn = none := rfl
@[simp] theorem State.present_reads (c : Command) : (s.present c).reads = s.reads := rfl
@[simp] theorem State.present_writeResults (c : Command) : (s.present c).writeResults = s.writeResults := rfl
@[simp] theorem State.present_writes (c : Command) : (s.present c).writes = s.writes := rfl
@[simp] theorem State.present_trace (c : Command) : (s.present c).trace = s.trace := rfl

/-! `State.assertReset` -/

@[simp] theorem State.assertReset_opstate : s.assertReset.opstate = .idle := rfl
@[simp] theorem State.assertReset_acc : s.assertReset.acc = none := rfl
@[simp] theorem State.assertReset_pst : s.assertReset.pst = .start := rfl
@[simp] theorem State.assertReset_lreg : s.assertReset.lreg = 0#8 := rfl
@[simp] theorem State.assertReset_idx : s.assertReset.idx = 0 := rfl
@[simp] theorem State.assertReset_nread : s.assertReset.nread = 0 := rfl
@[simp] theorem State.assertReset_result : s.assertReset.result = none := rfl
@[simp] theorem State.assertReset_rcount : s.assertReset.rcount = none := rfl
@[simp] theorem State.assertReset_rbyte : s.assertReset.rbyte = none := rfl
@[simp] theorem State.assertReset_rpos : s.assertReset.rpos = none := rfl
@[simp] theorem State.assertReset_rstat : s.assertReset.rstat = .none := rfl
@[simp] theorem State.assertReset_errcode : s.assertReset.errcode = .none := rfl
@[simp] theorem State.assertReset_errbyte : s.assertReset.errbyte = 0#8 := rfl
@[simp] theorem State.assertReset_errexp : s.assertReset.errexp = .none := rfl
@[simp] theorem State.assertReset_errwrap : s.assertReset.errwrap = false := rfl
@[simp] theorem State.assertReset_errtok : s.assertReset.errtok = none := rfl
@[simp] theorem State.assertReset_pin : s.assertReset.pin = s.pin := rfl
@[simp] theorem State.assertReset_fbuf : s.assertReset.fbuf = [] := rfl
@[simp] theorem State.assertReset_win : s.assertReset.win = [] := rfl
@[simp] theorem State.assertReset_dst : s.assertReset.dst = s.dst := rfl
@[simp] theorem State.assertReset_pending : s.assertReset.pending = none := rfl
@[simp] theorem State.assertReset_attached : s.assertReset.attached = s.attached := rfl
@[simp] theorem State.assertReset_port : s.assertReset.port = s.port := rfl
@[simp] theorem State.assertReset_resetIn : s.assertReset.resetIn = none := rfl
@[simp] theorem State.assertReset_reads : s.assertReset.reads = s.reads := rfl
@[simp] theorem State.assertReset_writeResults : s.assertReset.writeResults = s.writeResults := rfl
@[simp] theorem State.assertReset_writes : s.assertReset.writes = s.writes := rfl
@[simp] theorem State.assertReset_trace : s.assertReset.trace = s.trace := rfl

end Sys2Proof.Machine
end

