-- ==== Sys2Proof/Laws/Memory.lean ====
section
/-! SUPPORT. The byte spaces: read after write, and that every write keeps the one form. -/

namespace Sys2Proof.Machine

@[simp] theorem Memory.read_nil (i : Nat) : Memory.read [] i = none := rfl

theorem Memory.read_write (m : Memory) (i j : Nat) (b : Byte) :
    (m.write i b).read j = if j = i then some b else m.read j := by
  induction m with
  | nil => simp [Memory.write, Memory.read, eq_comm]
  | cons c m ih =>
    obtain ⟨k, v⟩ := c
    by_cases h1 : i < k
    · simp [Memory.write, Memory.read, h1, eq_comm]
    · by_cases h2 : i = k
      · subst h2
        by_cases hj : i = j <;> simp [Memory.write, Memory.read, hj, eq_comm]
      · have hw : Memory.write ((k, v) :: m) i b = (k, v) :: Memory.write m i b := by
          simp [Memory.write, h1, h2]
        rw [hw]
        simp only [Memory.read, ih]
        by_cases hk : k = j
        · subst hk; simp [Ne.symm h2]
        · simp [hk]

theorem Memory.read_writeBytes (m : Memory) (i j : Nat) (bs : List Byte) :
    (m.writeBytes i bs).read j = if i ≤ j ∧ j < i + bs.length then bs[j - i]? else m.read j := by
  induction bs generalizing m i with
  | nil =>
    have h : ¬(i ≤ j ∧ j < i + ([] : List Byte).length) := by simp
    rw [if_neg h]; rfl
  | cons b bs ih =>
    rw [Memory.writeBytes, ih, Memory.read_write]
    by_cases h : i + 1 ≤ j ∧ j < i + 1 + bs.length
    · have h' : i ≤ j ∧ j < i + (b :: bs).length := by simp; omega
      obtain ⟨d, rfl⟩ : ∃ d, j = i + 1 + d := ⟨j - (i + 1), by omega⟩
      have e1 : i + 1 + d - (i + 1) = d := by omega
      have e2 : i + 1 + d - i = d + 1 := by omega
      rw [if_pos h, if_pos h', e1, e2, List.getElem?_cons_succ]
    · rw [if_neg h]
      by_cases hj : j = i
      · subst hj; simp
      · have h' : ¬(i ≤ j ∧ j < i + (b :: bs).length) := by simp; omega
        rw [if_neg hj, if_neg h']

theorem Memory.read_ofBytesFrom (i j : Nat) (bs : List Byte) :
    (Memory.ofBytesFrom i bs).read j = if i ≤ j then bs[j - i]? else none := by
  induction bs generalizing i with
  | nil => simp [Memory.ofBytesFrom]
  | cons b bs ih =>
    simp only [Memory.ofBytesFrom, Memory.read, ih]
    by_cases hij : i = j
    · subst hij; simp
    · by_cases hle : i ≤ j
      · obtain ⟨d, rfl⟩ : ∃ d, j = i + 1 + d := ⟨j - (i + 1), by omega⟩
        have e1 : i + 1 + d - (i + 1) = d := by omega
        have e2 : i + 1 + d - i = d + 1 := by omega
        rw [if_neg hij, if_pos (by omega), if_pos hle, e1, e2, List.getElem?_cons_succ]
      · rw [if_neg hij, if_neg (by omega), if_neg hle]

/-- The space of a sequence holds its bytes and nothing after them (R52, R53). -/
@[simp] theorem Memory.read_ofBytes (bs : List Byte) (i : Nat) : (Memory.ofBytes bs).read i = bs[i]? := by
  simp [Memory.ofBytes, Memory.read_ofBytesFrom]

@[simp] theorem Memory.contents_ofBytesFrom (i : Nat) (bs : List Byte) :
    (Memory.ofBytesFrom i bs).contents = bs := by
  induction bs generalizing i with
  | nil => rfl
  | cons b bs ih =>
    have h := ih (i + 1)
    simp only [Memory.contents] at h
    simp [Memory.contents, Memory.ofBytesFrom, h]

@[simp] theorem Memory.contents_ofBytes (bs : List Byte) : (Memory.ofBytes bs).contents = bs :=
  Memory.contents_ofBytesFrom 0 bs

@[simp] theorem Memory.length_ofBytes (bs : List Byte) : (Memory.ofBytes bs).length = bs.length := by
  rw [← congrArg List.length (Memory.contents_ofBytes bs)]
  simp [Memory.contents]

theorem Memory.mem_ofBytesFrom_le (i : Nat) (bs : List Byte) : ∀ c ∈ Memory.ofBytesFrom i bs, i ≤ c.1 := by
  induction bs generalizing i with
  | nil => simp [Memory.ofBytesFrom]
  | cons b bs ih =>
    intro c hc
    rcases List.mem_cons.mp hc with rfl | hc
    · exact Nat.le_refl _
    · exact Nat.le_of_succ_le (ih (i + 1) c hc)

theorem Memory.ofBytesFrom_wf (i : Nat) (bs : List Byte) : (Memory.ofBytesFrom i bs).wf := by
  induction bs generalizing i with
  | nil => exact List.Pairwise.nil
  | cons b bs ih => exact List.Pairwise.cons (fun c hc => Memory.mem_ofBytesFrom_le (i + 1) bs c hc) (ih (i + 1))

theorem Memory.ofBytes_wf (bs : List Byte) : (Memory.ofBytes bs).wf := Memory.ofBytesFrom_wf 0 bs

theorem Memory.mem_write (m : Memory) (i : Nat) (b : Byte) : ∀ c ∈ m.write i b, c = (i, b) ∨ c ∈ m := by
  induction m with
  | nil => simp [Memory.write]
  | cons d m ih =>
    obtain ⟨k, v⟩ := d
    intro c hc
    simp only [Memory.write] at hc
    split at hc
    · simpa using hc
    · split at hc
      · rcases List.mem_cons.mp hc with h | h
        · exact .inl h
        · exact .inr (List.mem_cons_of_mem _ h)
      · rcases List.mem_cons.mp hc with h | h
        · exact .inr (h ▸ List.mem_cons_self)
        · exact (ih c h).imp_right (List.mem_cons_of_mem _)

/-- A write keeps the one form. -/
theorem Memory.write_wf {m : Memory} (h : m.wf) (i : Nat) (b : Byte) : (m.write i b).wf := by
  induction m with
  | nil => simp [Memory.write]
  | cons d m ih =>
    obtain ⟨k, v⟩ := d
    obtain ⟨hk, hm⟩ := List.pairwise_cons.mp h
    simp only [Memory.write]
    split
    · rename_i hik
      refine List.Pairwise.cons (fun c hc => ?_) h
      rcases List.mem_cons.mp hc with rfl | hc
      · exact hik
      · exact Nat.lt_trans hik (hk c hc)
    · split
      · rename_i hik
        subst hik
        exact List.Pairwise.cons hk hm
      · refine List.Pairwise.cons (fun c hc => ?_) (ih hm)
        rcases Memory.mem_write m i b c hc with rfl | hc
        · simp only; omega
        · exact hk c hc

/-! A copy broken off (R187, R290). -/

theorem Memory.read_append (m n : Memory) (j : Nat) : Memory.read (m ++ n) j = (m.read j).or (n.read j) := by
  induction m with
  | nil => rfl
  | cons c m ih => by_cases h : c.1 = j <;> simp [Memory.read, h, ih]

theorem Memory.read_filter (p : Nat → Bool) (m : Memory) (j : Nat) :
    Memory.read (m.filter fun c => p c.1) j = if p j then m.read j else none := by
  induction m with
  | nil => simp
  | cons c m ih => grind [Memory.read]

/-- Below `m` a splice reads as the new space, and from there on as the old one. -/
@[simp] theorem Memory.read_splice (m : Nat) (new old : Memory) (j : Nat) :
    (Memory.splice m new old).read j = if j < m then new.read j else old.read j := by
  rw [Memory.splice, Memory.read_append, Memory.read_filter (fun k => decide (k < m)),
    Memory.read_filter (fun k => decide (m ≤ k))]
  by_cases h : j < m
  · simp [h, Nat.not_le.mpr h]
  · simp [h, Nat.not_lt.mp h]

theorem Memory.splice_wf {new old : Memory} (hn : new.wf) (ho : old.wf) (m : Nat) : (Memory.splice m new old).wf := by
  refine List.pairwise_append.mpr ⟨hn.filter _, ho.filter _, fun c hc d hd => ?_⟩
  simp only [List.mem_filter, decide_eq_true_eq] at hc hd
  omega

/-- Writing a sequence keeps the one form. -/
theorem Memory.writeBytes_wf {m : Memory} (h : m.wf) (i : Nat) (bs : List Byte) : (m.writeBytes i bs).wf := by
  induction bs generalizing m i with
  | nil => exact h
  | cons b bs ih => exact ih (Memory.write_wf h i b) (i + 1)

end Sys2Proof.Machine
end

