-- ==== Sys2Proof/Laws/Parser.lean ====
section
/-! SUPPORT. The parser: its single steps, its run up to the first 00 FF pair, and its run through the header. -/

namespace Sys2Proof.Machine

/-! Pairs, seen from the front of a sequence. -/

theorem pairAt_cons_succ (b : Byte) (xs : List Byte) (k : Nat) :
    PairAt (b :: xs) (k + 1) ↔ (k = 0 ∧ b = 0x00#8 ∧ xs[0]? = some 0xFF#8) ∨ PairAt xs k := by
  cases k with
  | zero => simp [PairAt]
  | succ k => simp [PairAt]

theorem not_pairAt_zero (xs : List Byte) : ¬ PairAt xs 0 := by simp [PairAt]

theorem NoPair.tail {b : Byte} {xs : List Byte} (h : NoPair (b :: xs)) : NoPair xs :=
  fun k hk => h (k + 1) ((pairAt_cons_succ b xs k).mpr (.inr hk))

theorem NoPair.head {xs : List Byte} {c : Byte} (h : NoPair (0x00#8 :: c :: xs)) : c ≠ 0xFF#8 := by
  rintro rfl
  exact h 1 ((pairAt_cons_succ _ _ 0).mpr (.inl (by simp)))

theorem FirstPair.tail {b : Byte} {xs : List Byte} {k : Nat} (h : FirstPair (b :: xs) (k + 1))
    (hb : ¬(b = 0x00#8 ∧ xs[0]? = some 0xFF#8)) : FirstPair xs k := by
  refine ⟨?_, fun j hj hp => h.2 (j + 1) (by omega) ((pairAt_cons_succ b xs j).mpr (.inr hp))⟩
  rcases (pairAt_cons_succ b xs k).mp h.1 with ⟨-, h1, h2⟩ | h1
  · exact absurd ⟨h1, h2⟩ hb
  · exact h1

theorem FirstPair.pos {xs : List Byte} {k : Nat} (h : FirstPair xs k) : 1 ≤ k := h.1.1

theorem FirstPair.lt_length {xs : List Byte} {k : Nat} (h : FirstPair xs k) : k < xs.length := by
  have := h.1.2.2
  exact (List.getElem?_eq_some_iff.mp this).1

theorem FirstPair.eq {xs : List Byte} {j k : Nat} (hj : FirstPair xs j) (hk : FirstPair xs k) : j = k := by
  rcases Nat.lt_trichotomy j k with h | h | h
  · exact absurd hj.1 (hk.2 j h)
  · exact h
  · exact absurd hk.1 (hj.2 k h)

/-- A sequence has no pair, or a first one. -/
theorem noPair_or_firstPair (xs : List Byte) : NoPair xs ∨ ∃ k, FirstPair xs k := by
  by_cases h : ∃ k, PairAt xs k
  · classical
    exact .inr ⟨Nat.find h, Nat.find_spec h, fun j hj => Nat.find_min h hj⟩
  · exact .inl fun k hk => h ⟨k, hk⟩

/-- No pair among the indices of a sequence is no pair at all. -/
theorem noPair_of_lt {xs : List Byte} (h : ∀ j, j < xs.length → ¬ PairAt xs j) : NoPair xs := fun j hj =>
  h j (List.getElem?_eq_some_iff.mp hj.2.2).1 hj

/-- The first pair when none stands before the 0x00 that opens it. -/
theorem firstPair_append {lead rest : List Byte} (h : NoPair (lead ++ [0x00#8])) :
    FirstPair (lead ++ 0x00#8 :: 0xFF#8 :: rest) (lead.length + 1) := by
  refine ⟨⟨by omega, by simp, by simp⟩, fun j hj hp => h j ?_⟩
  obtain ⟨h1, h2, h3⟩ := hp
  have e : lead ++ 0x00#8 :: 0xFF#8 :: rest = (lead ++ [0x00#8]) ++ (0xFF#8 :: rest) := by simp
  refine ⟨h1, ?_, ?_⟩
  · rw [← h2, e, List.getElem?_append_left (l₁ := lead ++ [0x00#8]) (by simp; omega)]
  · rw [← h3, e, List.getElem?_append_left (l₁ := lead ++ [0x00#8]) (by simp; omega)]

/-! Running the preamble sub-machine. -/

theorem preambleState_cons (st : PState) (b : Byte) (xs : List Byte) :
    preambleState st (b :: xs) = preambleState (if b = 0x00#8 then .zero else .start) xs := by
  cases xs with
  | nil => simp [preambleState]
  | cons c cs => simp [preambleState, List.getLast?_cons]

@[simp] theorem preambleState_ne_done (xs : List Byte) : preambleState .start xs ≠ .done := by
  unfold preambleState; split <;> (try split) <;> simp

theorem feed_noPair (m : Mode) (l : Byte) (xs : List Byte) (n : Nat) :
    (NoPair xs → feed .stay m ⟨.start, l⟩ n xs = ⟨.ended, ⟨preambleState .start xs, l⟩, n + xs.length⟩) ∧
    (NoPair (0x00#8 :: xs) → feed .stay m ⟨.zero, l⟩ n xs = ⟨.ended, ⟨preambleState .zero xs, l⟩, n + xs.length⟩) := by
  induction xs generalizing n with
  | nil => simp [feed, preambleState]
  | cons b xs ih =>
    have hl : n + 1 + xs.length = n + (b :: xs).length := by simp; omega
    refine ⟨fun h => ?_, fun h => ?_⟩
    · rw [preambleState_cons]
      by_cases hb : b = 0x00#8
      · subst hb
        simpa [feed, parserStep, Config.pre0, hl] using (ih (n + 1)).2 h
      · simpa [feed, parserStep, Config.pre0, hb, hl] using (ih (n + 1)).1 h.tail
    · have hf := h.head
      rw [preambleState_cons]
      by_cases hb : b = 0x00#8
      · subst hb
        simpa [feed, parserStep, Config.pre0, Config.pre1, hl] using (ih (n + 1)).2 h.tail
      · simpa [feed, parserStep, Config.pre0, Config.pre1, hb, hf, hl] using (ih (n + 1)).1 h.tail.tail

/-- What a run is once the preamble has completed: over in preamble-only mode, in LEN in full mode. -/
def afterPair (m : Mode) (l : Byte) (n : Nat) (rest : List Byte) : Fed :=
  match m with
  | .preambleOnly => ⟨.complete, ⟨.zero, l⟩, n⟩
  | .full => feed .stay .full ⟨.len, l⟩ n rest

theorem feed_firstPair (m : Mode) (l : Byte) (xs : List Byte) (n k : Nat) :
    (FirstPair xs k → feed .stay m ⟨.start, l⟩ n xs = afterPair m l (n + k + 1) (xs.drop (k + 1))) ∧
    (FirstPair (0x00#8 :: xs) (k + 1) → feed .stay m ⟨.zero, l⟩ n xs = afterPair m l (n + k + 1) (xs.drop (k + 1))) := by
  induction xs generalizing n k with
  | nil =>
    constructor
    · intro h; exact absurd h.lt_length (by simp)
    · intro h; exact absurd h.lt_length (by simp)
  | cons b xs ih =>
    constructor
    · intro h
      obtain ⟨j, rfl⟩ : ∃ j, k = j + 1 := ⟨k - 1, by have := h.pos; omega⟩
      have hn : n + 1 + j + 1 = n + (j + 1) + 1 := by omega
      by_cases hb : b = 0x00#8
      · subst hb
        simpa [feed, parserStep, Config.pre0, hn] using (ih (n + 1) j).2 h
      · simpa [feed, parserStep, Config.pre0, hb, hn] using (ih (n + 1) j).1 (h.tail (by simp [hb]))
    · intro h
      by_cases hf : b = 0xFF#8
      · subst hf
        have hk : k = 0 := by
          by_contra hk
          exact h.2 1 (by omega) ((pairAt_cons_succ _ _ 0).mpr (.inl (by simp)))
        subst hk
        cases m <;> simp [feed, parserStep, Config.pre1, afterPair]
      · have h' := h.tail (by simp [hf])
        obtain ⟨j, rfl⟩ : ∃ j, k = j + 1 := ⟨k - 1, by have := h'.pos; omega⟩
        have hn : n + 1 + j + 1 = n + (j + 1) + 1 := by omega
        by_cases hb : b = 0x00#8
        · subst hb
          simpa [feed, parserStep, Config.pre0, Config.pre1, hn] using (ih (n + 1) j).2 h'
        · simpa [feed, parserStep, Config.pre0, Config.pre1, hb, hf, hn] using (ih (n + 1) j).1 (h'.tail (by simp [hb]))

/-- Without a pair the run ends with the sequence, in START or ZERO (R163 c). -/
theorem runParser_noPair (m : Mode) (l : Byte) {xs : List Byte} (h : NoPair xs) :
    runParser m l xs = ⟨.ended, ⟨preambleState .start xs, l⟩, xs.length⟩ := by
  simpa [runParser, Config.zeroInZeroFound] using (feed_noPair m l xs 0).1 h

/-- The preamble completes at the first pair, whatever stands before it (R163 b). -/
theorem runParser_firstPair (m : Mode) (l : Byte) {xs : List Byte} {k : Nat} (h : FirstPair xs k) :
    runParser m l xs = afterPair m l (k + 1) (xs.drop (k + 1)) := by
  simpa [runParser, Config.zeroInZeroFound] using (feed_firstPair m l xs 0 k).1 h

/-! The header after the pair (R156 to R161). -/

@[simp] theorem afterPair_scan (l : Byte) (n : Nat) (rest : List Byte) :
    afterPair .preambleOnly l n rest = ⟨.complete, ⟨.zero, l⟩, n⟩ := rfl

@[simp] theorem afterPair_nil (l : Byte) (n : Nat) : afterPair .full l n [] = ⟨.ended, ⟨.len, l⟩, n⟩ := rfl

@[simp] theorem afterPair_one (l len : Byte) (n : Nat) : afterPair .full l n [len] = ⟨.ended, ⟨.lcs, len⟩, n + 1⟩ := rfl

theorem afterPair_badLcs (l len c : Byte) (n : Nat) (rest : List Byte) (h : len + c ≠ 0#8) :
    afterPair .full l n (len :: c :: rest) = ⟨.failed .invalidChecksumLength, ⟨.lcs, len⟩, n + 2⟩ := by
  simp [afterPair, feed, parserStep, h]

theorem afterPair_two (l len c : Byte) (n : Nat) (h : len + c = 0#8) :
    afterPair .full l n [len, c] = ⟨.ended, ⟨.tfi, len⟩, n + 2⟩ := by
  simp [afterPair, feed, parserStep, h]

theorem afterPair_badTfi (l len c f : Byte) (n : Nat) (rest : List Byte) (h : len + c = 0#8) (hf : f ≠ 0xD5#8) :
    afterPair .full l n (len :: c :: f :: rest) = ⟨.failed (.invalidByte f .tfiD2H), ⟨.tfi, len⟩, n + 3⟩ := by
  simp [afterPair, feed, parserStep, h, Config.tfiD2H, hf]

theorem afterPair_done (l len c : Byte) (n : Nat) (rest : List Byte) (h : len + c = 0#8) :
    afterPair .full l n (len :: c :: 0xD5#8 :: rest) = ⟨.complete, ⟨.done, len⟩, n + 3⟩ := by
  cases rest <;> simp [afterPair, feed, parserStep, h, Config.tfiD2H]

/-- Everything a full run can be (R162): no pair; a header cut short; a bad LCS; a bad TFI; DONE. -/
theorem runParser_full_cases (l : Byte) (xs : List Byte) :
    (NoPair xs ∧ runParser .full l xs = ⟨.ended, ⟨preambleState .start xs, l⟩, xs.length⟩) ∨
    ∃ k, FirstPair xs k ∧
      ((xs.drop (k + 1) = [] ∧ runParser .full l xs = ⟨.ended, ⟨.len, l⟩, xs.length⟩) ∨
       (∃ len, xs.drop (k + 1) = [len] ∧ runParser .full l xs = ⟨.ended, ⟨.lcs, len⟩, xs.length⟩) ∨
       (∃ len c, xs.drop (k + 1) = [len, c] ∧ len + c = 0#8 ∧ runParser .full l xs = ⟨.ended, ⟨.tfi, len⟩, xs.length⟩) ∨
       (∃ len c rest, xs.drop (k + 1) = len :: c :: rest ∧ len + c ≠ 0#8 ∧
          runParser .full l xs = ⟨.failed .invalidChecksumLength, ⟨.lcs, len⟩, k + 3⟩) ∨
       (∃ len c f rest, xs.drop (k + 1) = len :: c :: f :: rest ∧ len + c = 0#8 ∧ f ≠ 0xD5#8 ∧
          runParser .full l xs = ⟨.failed (.invalidByte f .tfiD2H), ⟨.tfi, len⟩, k + 4⟩) ∨
       (∃ len c rest, xs.drop (k + 1) = len :: c :: 0xD5#8 :: rest ∧ len + c = 0#8 ∧
          runParser .full l xs = ⟨.complete, ⟨.done, len⟩, k + 4⟩)) := by
  rcases noPair_or_firstPair xs with h | ⟨k, h⟩
  · exact .inl ⟨h, runParser_noPair .full l h⟩
  · refine .inr ⟨k, h, ?_⟩
    have hr := runParser_firstPair .full l h
    have hlen : xs.length = k + 1 + (xs.drop (k + 1)).length := by
      have := h.lt_length; simp; omega
    rcases hd : xs.drop (k + 1) with _ | ⟨len, _ | ⟨c, rest⟩⟩
    · rw [hd] at hr hlen; exact .inl ⟨rfl, by simpa [hlen] using hr⟩
    · rw [hd] at hr hlen; exact .inr (.inl ⟨len, rfl, by simpa [hlen] using hr⟩)
    · rw [hd] at hr hlen
      by_cases hc : len + c = 0#8
      · rcases rest with _ | ⟨f, rest⟩
        · exact .inr (.inr (.inl ⟨len, c, rfl, hc, by simpa [hlen, afterPair_two, hc] using hr⟩))
        · by_cases hf : f = 0xD5#8
          · subst hf
            exact .inr (.inr (.inr (.inr (.inr ⟨len, c, rest, rfl, hc, hr.trans (afterPair_done l len c (k + 1) rest hc)⟩))))
          · exact .inr (.inr (.inr (.inr (.inl
              ⟨len, c, f, rest, rfl, hc, hf, hr.trans (afterPair_badTfi l len c f (k + 1) rest hc hf)⟩))))
      · exact .inr (.inr (.inr (.inl ⟨len, c, rest, rfl, hc, hr.trans (afterPair_badLcs l len c (k + 1) rest hc)⟩)))

/-- Everything a preamble-only run can be (R163 b, c). -/
theorem runParser_scan_cases (l : Byte) (xs : List Byte) :
    (NoPair xs ∧ runParser .preambleOnly l xs = ⟨.ended, ⟨preambleState .start xs, l⟩, xs.length⟩) ∨
    ∃ k, FirstPair xs k ∧ runParser .preambleOnly l xs = ⟨.complete, ⟨.zero, l⟩, k + 1⟩ := by
  rcases noPair_or_firstPair xs with h | ⟨k, h⟩
  · exact .inl ⟨h, runParser_noPair .preambleOnly l h⟩
  · exact .inr ⟨k, h, by simpa using runParser_firstPair .preambleOnly l h⟩

end Sys2Proof.Machine
end

