-- ==== Sys2Proof/Laws/Ready.lean ====
section
/-! SUPPORT. The ready-read agent: everything a ready-read can answer, in both forms (R64 to R70). -/

namespace Sys2Proof.Machine

@[simp] theorem ready_chunk (bs : List Byte) : ready (chunk Config.window bs) = ready bs := by
  cases bs <;> rfl

theorem ReadAttempt.time_eq (a : ReadAttempt) : a.time = Config.pollDelay.ms + a.took.ms := rfl

@[simp] theorem waitTime_nil : waitTime [] = 0 := rfl

@[simp] theorem waitTime_cons (a : ReadAttempt) (as : List ReadAttempt) : waitTime (a :: as) = a.time + waitTime as := rfl

@[simp] theorem waitTime_append (as bs : List ReadAttempt) : waitTime (as ++ bs) = waitTime as + waitTime bs := by
  induction as with
  | nil => simp
  | cons a as ih => simp [ih, add_assoc]

/-- A read attempt is not ready, or it ends the ready-read. -/
theorem ReadAttempt.notReady_or_answers (a : ReadAttempt) : a.NotReady ∨ ∃ r, a.Answers r := by
  obtain ⟨r, took⟩ := a
  cases r with
  | fail e => exact .inr ⟨_, .fail e took⟩
  | bytes bs =>
    cases h : ready bs with
    | false => exact .inl ⟨bs, rfl, h⟩
    | true => exact .inr ⟨_, .ready bs took h⟩

/-! Durations. -/

@[simp] theorem ms_whole (n : Nat) : (Duration.mk n 0).ms = n := by simp [Duration.ms]

/-! One attempt. -/

theorem readyRead_notReady {a : ReadAttempt} (h : a.NotReady) (as : List ReadAttempt) :
    readyRead Config.window (a :: as) = (readyRead Config.window as).after a := by
  obtain ⟨bs, hr, hb⟩ := h
  simp [readyRead, hr, hb]

theorem readyRead_answer {a : ReadAttempt} {r : ReadyEnd} (h : a.Answers r) (as : List ReadAttempt) :
    readyRead Config.window (a :: as) = ⟨some r, [a], as⟩ := by
  cases h with
  | fail e took => rfl
  | ready bs took hb => simp [readyRead, hb]; rfl

theorem readyReadTimeout_notReady {a : ReadAttempt} (h : a.NotReady) {t el : ℚ≥0} (ht : el + a.time ≤ t)
    (as : List ReadAttempt) :
    readyReadTimeout Config.window t el (a :: as) = (readyReadTimeout Config.window t (el + a.time) as).after a := by
  obtain ⟨bs, hr, hb⟩ := h
  simp [readyReadTimeout, hr, hb, not_lt.mpr ht]

theorem readyReadTimeout_late {a : ReadAttempt} (h : a.NotReady) {t el : ℚ≥0} (ht : t < el + a.time)
    (as : List ReadAttempt) : readyReadTimeout Config.window t el (a :: as) = ⟨.late, [a], as⟩ := by
  obtain ⟨bs, hr, hb⟩ := h
  simp [readyReadTimeout, hr, hb, ht]

theorem readyReadTimeout_answer {a : ReadAttempt} {r : ReadyEnd} (h : a.Answers r) (t el : ℚ≥0)
    (as : List ReadAttempt) : readyReadTimeout Config.window t el (a :: as) = ⟨.ready r, [a], as⟩ := by
  cases h with
  | fail e took => rfl
  | ready bs took hb => simp [readyReadTimeout, hb]; rfl

/-! A whole ready-read. -/

/-- With no ready or failing attempt the blocking ready-read has not returned (R66). -/
theorem readyRead_waits {as : List ReadAttempt} (h : ∀ a ∈ as, a.NotReady) :
    readyRead Config.window as = ⟨none, as, []⟩ := by
  induction as with
  | nil => rfl
  | cons a as ih =>
    rw [readyRead_notReady (h a (by simp)), ih (fun b hb => h b (by simp [hb]))]
    rfl

/-- The blocking ready-read ends with the first attempt that is ready or fails (R64, R67). -/
theorem readyRead_answers {ws : List ReadAttempt} (h : ∀ a ∈ ws, a.NotReady) {a : ReadAttempt} {r : ReadyEnd}
    (ha : a.Answers r) (rest : List ReadAttempt) :
    readyRead Config.window (ws ++ a :: rest) = ⟨some r, ws ++ [a], rest⟩ := by
  induction ws with
  | nil => simp [readyRead_answer ha]
  | cons b ws ih =>
    rw [List.cons_append, readyRead_notReady (h b (by simp)), ih (fun c hc => h c (by simp [hc]))]
    rfl

/-- A list of attempts has none that ends a ready-read, or a first one. -/
theorem attempts_cases (as : List ReadAttempt) :
    (∀ a ∈ as, a.NotReady) ∨
    ∃ ws a r rest, as = ws ++ a :: rest ∧ (∀ b ∈ ws, b.NotReady) ∧ ReadAttempt.Answers a r := by
  induction as with
  | nil => exact .inl (by simp)
  | cons a as ih =>
    rcases a.notReady_or_answers with h | ⟨r, h⟩
    · rcases ih with ih | ⟨ws, b, r, rest, rfl, hw, hb⟩
      · exact .inl (by simpa [h] using ih)
      · exact .inr ⟨a :: ws, b, r, rest, rfl, by simpa [h] using hw, hb⟩
    · exact .inr ⟨[], a, r, as, rfl, by simp, h⟩

/-- Attempts that are not ready and leave the deadline ahead are followed by the rest of the timed ready-read (R68, R69). -/
theorem readyReadTimeout_skip {ws : List ReadAttempt} (h : ∀ a ∈ ws, a.NotReady) {t el : ℚ≥0}
    (ht : el + waitTime ws ≤ t) (rest : List ReadAttempt) :
    readyReadTimeout Config.window t el (ws ++ rest) =
      { readyReadTimeout Config.window t (el + waitTime ws) rest with
        made := ws ++ (readyReadTimeout Config.window t (el + waitTime ws) rest).made } := by
  induction ws generalizing el with
  | nil => simp
  | cons b ws ih =>
    rw [waitTime_cons, ← add_assoc] at ht
    rw [List.cons_append, readyReadTimeout_notReady (h b (by simp)) (le_trans le_self_add ht),
      ih (fun c hc => h c (by simp [hc])) ht, waitTime_cons, add_assoc]
    rfl

/-- With no ready, failing or late attempt the timed ready-read times out past the drawn attempts (R70, D21). -/
theorem readyReadTimeout_silent {as : List ReadAttempt} (h : ∀ a ∈ as, a.NotReady) {t el : ℚ≥0}
    (ht : el + waitTime as ≤ t) : readyReadTimeout Config.window t el as = ⟨.silent, as, []⟩ := by
  have := readyReadTimeout_skip h ht []
  simpa [readyReadTimeout] using this

/-- The timed ready-read ends with the first attempt that is ready or fails, where the attempts before it leave the
deadline ahead, whatever time that attempt itself takes (R69). -/
theorem readyReadTimeout_answers {ws : List ReadAttempt} (h : ∀ a ∈ ws, a.NotReady) {a : ReadAttempt} {r : ReadyEnd}
    (ha : a.Answers r) (rest : List ReadAttempt) {t el : ℚ≥0} (ht : el + waitTime ws ≤ t) :
    readyReadTimeout Config.window t el (ws ++ a :: rest) = ⟨.ready r, ws ++ [a], rest⟩ := by
  rw [readyReadTimeout_skip h ht, readyReadTimeout_answer ha]

/-- The timed ready-read times out at the first attempt that is not ready and past the deadline (R69, R70). -/
theorem readyReadTimeout_expires {ws : List ReadAttempt} (h : ∀ a ∈ ws, a.NotReady) {a : ReadAttempt}
    (ha : a.NotReady) (rest : List ReadAttempt) {t el : ℚ≥0} (ht : el + waitTime ws ≤ t)
    (hl : t < el + waitTime (ws ++ [a])) :
    readyReadTimeout Config.window t el (ws ++ a :: rest) = ⟨.late, ws ++ [a], rest⟩ := by
  rw [readyReadTimeout_skip h ht, readyReadTimeout_late ha (by simpa [add_assoc] using hl)]

/-- Everything a timed ready-read can meet, from a time before its deadline (R69). -/
theorem timedAttempts_cases (t el : ℚ≥0) (h : el ≤ t) (as : List ReadAttempt) :
    ((∀ a ∈ as, a.NotReady) ∧ el + waitTime as ≤ t) ∨
    (∃ ws a r rest, as = ws ++ a :: rest ∧ (∀ b ∈ ws, b.NotReady) ∧ ReadAttempt.Answers a r ∧
      el + waitTime ws ≤ t) ∨
    (∃ ws a rest, as = ws ++ a :: rest ∧ (∀ b ∈ ws, b.NotReady) ∧ ReadAttempt.NotReady a ∧
      el + waitTime ws ≤ t ∧ t < el + waitTime (ws ++ [a])) := by
  induction as generalizing el with
  | nil => exact .inl ⟨by simp, by simpa using h⟩
  | cons a as ih =>
    rcases a.notReady_or_answers with ha | ⟨r, ha⟩
    · by_cases hl : t < el + a.time
      · exact .inr (.inr ⟨[], a, as, rfl, by simp, ha, by simpa using h, by simpa using hl⟩)
      · rcases ih (el + a.time) (not_lt.mp hl) with ⟨h1, h2⟩ | ⟨ws, b, r, rest, rfl, h1, h2, h3⟩ |
          ⟨ws, b, rest, rfl, h1, h2, h3, h4⟩
        · exact .inl ⟨by simpa [ha] using h1, by simpa [add_assoc] using h2⟩
        · exact .inr (.inl ⟨a :: ws, b, r, rest, rfl, by simpa [ha] using h1, h2, by simpa [add_assoc] using h3⟩)
        · exact .inr (.inr ⟨a :: ws, b, rest, rfl, by simpa [ha] using h1, h2, by simpa [add_assoc] using h3,
            by simpa [add_assoc] using h4⟩)
    · exact .inr (.inl ⟨[], a, r, as, rfl, by simp, ha, by simpa using h⟩)

end Sys2Proof.Machine
end

