-- ==== Sys2Proof/Laws/Ops.lean ====
section
/-! SUPPORT. The shared operations: what accepting, sending, waiting for a window and decoding it can do. -/

namespace Sys2Proof.Machine

/-! The command port (R21, R292). -/

theorem State.accept_idle {s : State} (h : s.opstate = .idle) (k : State → Answer) : s.accept k = k s.begin := by
  simp [State.accept, h]

theorem State.accept_busy {s : State} (h : s.opstate = .busy) (k : State → Answer) :
    s.accept k = .refused .commandWhileBusy := by
  simp [State.accept, h]

/-- A command that has a step was accepted in IDLE. -/
theorem State.accept_next {s t : State} {k : State → Answer} :
    s.accept k = .next t ↔ s.opstate = .idle ∧ k s.begin = .next t := by
  cases h : s.opstate <;> simp [State.accept, h]

theorem State.withTransport_attached {s : State} (h : s.attached = true) (k : State → Answer) :
    s.withTransport k = k s := by
  simp [State.withTransport, h]

theorem State.withTransport_next {s t : State} {k : State → Answer} :
    s.withTransport k = .next t ↔ s.attached = true ∧ k s = .next t := by
  cases h : s.attached <;> simp [State.withTransport, h]

/-! Which step each operation takes. -/

theorem exec_csumFold_next {seed : Byte} {xs : List Byte} {s t : State} :
    exec (.csumFold seed xs) s = .next t ↔
      s.opstate = .idle ∧ ((s.begin.setAcc (sum8 seed xs)).setRbyte (sum8 seed xs)).succeed .none = t := by
  simp [exec, execCsumFold, State.accept_next]

theorem exec_preScan_next {xs : List Byte} {s t : State} :
    exec (.preScan xs) s = .next t ↔ s.opstate = .idle ∧ s.begin.scanSequence xs = t := by
  simp [exec, execPreScan, State.accept_next]

theorem exec_hdrParse_next {xs : List Byte} {s t : State} :
    exec (.hdrParse xs) s = .next t ↔ s.opstate = .idle ∧ s.begin.parseSequence xs = t := by
  simp [exec, execHdrParse, State.accept_next]

theorem exec_recv_next {d : Nat} {s t : State} :
    exec (.recv d) s = .next t ↔ s.opstate = .idle ∧ s.attached = true ∧ s.begin.recvFrom d = t := by
  simp [exec, execRecv, State.accept_next, State.withTransport_next]

theorem exec_recvTo_next {d : Nat} {t' : Duration} {s t : State} :
    exec (.recvTo d t') s = .next t ↔ s.opstate = .idle ∧ s.attached = true ∧ s.begin.recvToFrom d t' = t := by
  simp [exec, execRecvTo, State.accept_next, State.withTransport_next]

theorem exec_recvAck_next {s t : State} :
    exec .recvAck s = .next t ↔ s.opstate = .idle ∧ s.attached = true ∧ s.begin.ackFrom .recvAck = t := by
  simp [exec, execRecvAck, State.accept_next, State.withTransport_next]

/-- The front of SEND and SEND.ACK: too long (R131), or the frame is sent and `k` goes on. -/
theorem State.sendBody_next {p : List Byte} {k : State → State} {s t : State} :
    s.sendBody p k = .next t ↔
      (254 < p.length ∧ (s.presentPin p).raise .other .tooMuchData = t) ∨
      (p.length ≤ 254 ∧ s.attached = true ∧ (s.presentPin p).sendThen k = t) := by
  by_cases h : 254 < p.length
  · simp [State.sendBody, tooLong, Config.maxPayload, h, Nat.not_le.mpr h]
  · simp [State.sendBody, tooLong, Config.maxPayload, h, Nat.not_lt.mp h, State.withTransport_next]

theorem exec_send_next {p : List Byte} {s t : State} :
    exec (.send p) s = .next t ↔ s.opstate = .idle ∧ s.begin.sendBody p (fun s => s.succeed .none) = .next t := by
  simp [exec, execSend, State.accept_next]

theorem exec_sendAck_next {p : List Byte} {s t : State} :
    exec (.sendAck p) s = .next t ↔ s.opstate = .idle ∧ s.begin.sendBody p (fun s => s.ackFrom .sendAck) = .next t := by
  simp [exec, execSendAck, State.accept_next]

/-! Sending (R138, R139). -/

theorem State.sendThen_ok {s : State} (h : s.drawWrite = .ok) (k : State → State) : s.sendThen k = k s.sendFrame := by
  simp [State.sendThen, h]

theorem State.sendThen_terr {s : State} {e : TErr} (h : s.drawWrite = .terr e) (k : State → State) :
    s.sendThen k = s.sendFrame.raise .other (.transportWrite e) := by
  simp [State.sendThen, h]

@[simp] theorem State.presentPin_drawWrite (p : List Byte) (s : State) : (s.presentPin p).drawWrite = s.drawWrite := rfl

@[simp] theorem State.begin_drawWrite (s : State) : s.begin.drawWrite = s.drawWrite := rfl

/-- The frame of a payload has the relations of R90 to R94. -/
theorem frame_hostFrame {p : List Byte} (h : p.length ≤ 254) : HostFrame (frame p) := by
  refine ⟨lengthByte p, neg8 (lengthByte p), neg8 (sum8 Config.tfiH2D p), p, by simp [frame, Config.pre0, Config.pre1, Config.tfiH2D], ?_, ?_, ?_⟩
  · simp [lengthByte]; omega
  · exact (add_eq_zero_iff_eq_neg8 _ _).mpr rfl
  · rw [sum8_append_list]
    exact (add_eq_zero_iff_eq_neg8 _ _).mpr rfl

/-! Waiting for a window, in the four places an operation does it. -/

theorem State.recvFrom_waits {s : State} (h : ∀ a ∈ s.reads, a.NotReady) (d : Nat) :
    s.recvFrom d = (s.polled s.reads []).wait (.recv d) := by
  simp [State.recvFrom, readyRead_waits h]

theorem State.recvFrom_answers {s : State} {ws : List ReadAttempt} {a : ReadAttempt} {r : ReadyEnd}
    {rest : List ReadAttempt} (hr : s.reads = ws ++ a :: rest) (h : ∀ b ∈ ws, b.NotReady) (ha : a.Answers r) (d : Nat) :
    s.recvFrom d = (s.polled (ws ++ [a]) rest).received .other d r := by
  simp [State.recvFrom, hr, readyRead_answers h ha]

theorem State.recvToFrom_silent {s : State} (h : ∀ a ∈ s.reads, a.NotReady) {t : Duration}
    (ht : waitTime s.reads ≤ t.ms) (d : Nat) :
    s.recvToFrom d t = ((s.polled s.reads []).pastDeadline t).raise .recvTo .timeout := by
  simp [State.recvToFrom, readyReadTimeout_silent h (t := t.ms) (el := 0) (by simpa using ht)]

theorem State.recvToFrom_answers {s : State} {ws : List ReadAttempt} {a : ReadAttempt} {r : ReadyEnd}
    {rest : List ReadAttempt} (hr : s.reads = ws ++ a :: rest) (h : ∀ b ∈ ws, b.NotReady) (ha : a.Answers r)
    {t : Duration} (ht : waitTime ws ≤ t.ms) (d : Nat) :
    s.recvToFrom d t = (s.polled (ws ++ [a]) rest).received .recvTo d r := by
  simp [State.recvToFrom, hr, readyReadTimeout_answers h ha rest (t := t.ms) (el := 0) (by simpa using ht)]

theorem State.recvToFrom_expires {s : State} {ws : List ReadAttempt} {a : ReadAttempt}
    {rest : List ReadAttempt} (hr : s.reads = ws ++ a :: rest) (h : ∀ b ∈ ws, b.NotReady) (ha : a.NotReady)
    {t : Duration} (ht : waitTime ws ≤ t.ms) (hl : t.ms < waitTime (ws ++ [a])) (d : Nat) :
    s.recvToFrom d t = (s.polled (ws ++ [a]) rest).raise .recvTo .timeout := by
  simp [State.recvToFrom, hr, readyReadTimeout_expires h ha rest (t := t.ms) (el := 0) (by simpa using ht) (by simpa using hl)]

/-- Every way RECV.TO goes on from its start (R69, R70, R192, R193); it never waits. -/
theorem State.recvToFrom_cases (s : State) (d : Nat) (t : Duration) :
    ((∀ a ∈ s.reads, a.NotReady) ∧ waitTime s.reads ≤ t.ms ∧
      s.recvToFrom d t = ((s.polled s.reads []).pastDeadline t).raise .recvTo .timeout) ∨
    (∃ ws a r rest, s.reads = ws ++ a :: rest ∧ (∀ b ∈ ws, b.NotReady) ∧ ReadAttempt.Answers a r ∧ waitTime ws ≤ t.ms ∧
      s.recvToFrom d t = (s.polled (ws ++ [a]) rest).received .recvTo d r) ∨
    (∃ ws a rest, s.reads = ws ++ a :: rest ∧ (∀ b ∈ ws, b.NotReady) ∧ ReadAttempt.NotReady a ∧ waitTime ws ≤ t.ms ∧
      t.ms < waitTime (ws ++ [a]) ∧ s.recvToFrom d t = (s.polled (ws ++ [a]) rest).raise .recvTo .timeout) := by
  rcases timedAttempts_cases t.ms 0 zero_le s.reads with ⟨h1, h2⟩ | ⟨ws, a, r, rest, h1, h2, h3, h4⟩ |
    ⟨ws, a, rest, h1, h2, h3, h4, h5⟩
  · rw [zero_add] at h2
    exact .inl ⟨h1, h2, State.recvToFrom_silent h1 h2 d⟩
  · rw [zero_add] at h4
    exact .inr (.inl ⟨ws, a, r, rest, h1, h2, h3, h4, State.recvToFrom_answers h1 h2 h3 h4 d⟩)
  · rw [zero_add] at h4 h5
    exact .inr (.inr ⟨ws, a, rest, h1, h2, h3, h4, h5, State.recvToFrom_expires h1 h2 h3 h4 h5 d⟩)

theorem State.ackFrom_waits {s : State} (h : ∀ a ∈ s.reads, a.NotReady) (p : Pending) :
    s.ackFrom p = (s.polled s.reads []).wait p := by
  simp [State.ackFrom, readyRead_waits h]

theorem State.ackFrom_window {s : State} {ws : List ReadAttempt} {a : ReadAttempt} {w : List Byte}
    {rest : List ReadAttempt} (hr : s.reads = ws ++ a :: rest) (h : ∀ b ∈ ws, b.NotReady) (ha : a.Answers (.window w))
    (p : Pending) : s.ackFrom p = (s.polled (ws ++ [a]) rest).scanWindow w := by
  simp [State.ackFrom, hr, readyRead_answers h ha]

theorem State.ackFrom_fails {s : State} {ws : List ReadAttempt} {a : ReadAttempt} {e : TErr}
    {rest : List ReadAttempt} (hr : s.reads = ws ++ a :: rest) (h : ∀ b ∈ ws, b.NotReady) (ha : a.Answers (.terr e))
    (p : Pending) : s.ackFrom p = (s.polled (ws ++ [a]) rest).raise .other (.transportRead e) := by
  simp [State.ackFrom, hr, readyRead_answers h ha]

/-! Decoding a window, by what the parser run over it is (R182 to R190). -/

/-- The state of a window operation after the parser run. -/
def State.parsed (ws : List Byte) (p : PState) (l : Byte) (n : Nat) (s : State) : State :=
  ((s.setWindow ws).setParser p l).setIdx n

theorem State.decodeWindow_ended {s : State} {ws : List Byte} {p : PState} {l : Byte} {n : Nat}
    (h : runParser .full s.lreg ws = ⟨.ended, ⟨p, l⟩, n⟩) (who : Raiser) (d : Nat) :
    s.decodeWindow who d ws = (s.parsed ws p l n).raise who .unexpectedEnd := by
  simp [State.decodeWindow, h, State.parsed, State.setFed]

theorem State.decodeWindow_failed {s : State} {ws : List Byte} {e : Err} {p : PState} {l : Byte} {n : Nat}
    (h : runParser .full s.lreg ws = ⟨.failed e, ⟨p, l⟩, n⟩) (who : Raiser) (d : Nat) :
    s.decodeWindow who d ws = (s.parsed ws p l n).raise who e := by
  simp [State.decodeWindow, h, State.parsed, State.setFed]

theorem State.decodeWindow_complete {s : State} {ws : List Byte} {p : PState} {l : Byte} {n : Nat}
    (h : runParser .full s.lreg ws = ⟨.complete, ⟨p, l⟩, n⟩) (who : Raiser) (d : Nat) :
    s.decodeWindow who d ws = (s.parsed ws p l n).checkBody who d := by
  simp [State.decodeWindow, h, State.parsed, State.setFed]

/-- The checks after DONE, one case each (R184 to R188). -/
theorem State.checkBody_cases (s : State) (who : Raiser) (d : Nat) :
    (s.nread - s.idx < s.lreg.toNat ∧ s.checkBody who d = s.raise who .unexpectedEnd) ∨
    (s.lreg.toNat ≤ s.nread - s.idx ∧ s.lreg.toNat = 0 ∧
      s.checkBody who d = s.raise who (.invalidByte 0#8 .atLeastOne)) ∨
    (s.lreg.toNat ≤ s.nread - s.idx ∧ s.lreg.toNat ≠ 0 ∧
      sum8 0xD5#8 (bodyOf s.win.contents s.idx s.lreg.toNat) ≠ 0#8 ∧
      s.checkBody who d =
        (s.setAcc (sum8 0xD5#8 (bodyOf s.win.contents s.idx s.lreg.toNat))).raise who .invalidChecksumData) ∨
    (s.lreg.toNat ≤ s.nread - s.idx ∧ s.lreg.toNat ≠ 0 ∧
      sum8 0xD5#8 (bodyOf s.win.contents s.idx s.lreg.toNat) = 0#8 ∧
      s.checkBody who d = ((s.setAcc 0#8).deliver
        ((bodyOf s.win.contents s.idx s.lreg.toNat).take (min (s.lreg.toNat - 1) d))).succeed .none) := by
  by_cases h1 : s.nread - s.idx < s.lreg.toNat
  · exact .inl ⟨h1, by simp [State.checkBody, h1]⟩
  · by_cases h2 : s.lreg.toNat = 0
    · exact .inr (.inl ⟨by omega, h2, by simp [State.checkBody, h2]⟩)
    · by_cases h3 : sum8 0xD5#8 (bodyOf s.win.contents s.idx s.lreg.toNat) = 0#8
      · exact .inr (.inr (.inr ⟨by omega, h2, h3, by simp [State.checkBody, h1, h2, h3, Config.tfiD2H]⟩))
      · exact .inr (.inr (.inl ⟨by omega, h2, h3, by simp [State.checkBody, h1, h2, h3, Config.tfiD2H]⟩))

/-- A window scan succeeds at the first pair (R211), or there is none (R212). -/
theorem State.scanWindow_cases (s : State) (ws : List Byte) :
    (NoPair ws ∧ s.scanWindow ws =
      (s.parsed ws (preambleState .start ws) s.lreg ws.length).raise .other .unexpectedEnd) ∨
    ∃ k, FirstPair ws k ∧ s.scanWindow ws = (s.parsed ws .zero s.lreg (k + 1)).succeed .none := by
  rcases runParser_scan_cases s.lreg ws with ⟨h, hr⟩ | ⟨k, h, hr⟩
  · exact .inl ⟨h, by simp [State.scanWindow, hr, State.parsed, State.setFed]⟩
  · exact .inr ⟨k, h, by simp [State.scanWindow, hr, State.parsed, State.setFed]⟩

end Sys2Proof.Machine
end

