-- ==== Sys2Proof/Laws/Frames.lean ====
section
/-! SUPPORT. What the window operations leave unchanged, how they end, and that a ready-read cut in two by a wait is the
whole ready-read. -/

namespace Sys2Proof.Machine

/-- What no part of an operation after its ready-read writes: the client's payload, the frame, RBYTE, RPOS, the ports and
the bus. -/
structure State.Keeps (s t : State) : Prop where
  pin : t.pin = s.pin
  fbuf : t.fbuf = s.fbuf
  rbyte : t.rbyte = s.rbyte
  rpos : t.rpos = s.rpos
  attached : t.attached = s.attached
  port : t.port = s.port
  resetIn : t.resetIn = s.resetIn
  writes : t.writes = s.writes
  writeResults : t.writeResults = s.writeResults
  reads : t.reads = s.reads
  trace : t.trace = s.trace

/-- How such a part ends: with success, or with an error that leaves DST and RCOUNT; the block is IDLE (R253, R254). -/
structure State.Concludes (who : Raiser) (s t : State) : Prop where
  keeps : s.Keeps t
  idle : t.opstate = .idle ∧ t.pending = none
  how : (∃ r u, t = State.succeed r u ∧ r ≠ .failed) ∨
    (∃ e u, t = State.raise who e u ∧ (∀ b, e ≠ .invalidByte b .none) ∧ e ≠ .timeout ∧ u.dst = s.dst ∧ u.rcount = s.rcount)

theorem State.succeed_concludes {s u : State} {who : Raiser} {r : RStat} (h : s.Keeps u) (hr : r ≠ .failed) :
    s.Concludes who (u.succeed r) :=
  ⟨⟨h.1, h.2, h.3, h.4, h.5, h.6, h.7, h.8, h.9, h.10, h.11⟩, ⟨rfl, rfl⟩, .inl ⟨r, u, rfl, hr⟩⟩

theorem State.raise_concludes {s u : State} {who : Raiser} {e : Err} (h : s.Keeps u) (hb : ∀ b, e ≠ .invalidByte b .none)
    (ht : e ≠ .timeout) (hd : u.dst = s.dst) (hc : u.rcount = s.rcount) : s.Concludes who (u.raise who e) :=
  ⟨⟨h.1, h.2, h.3, h.4, h.5, h.6, h.7, h.8, h.9, h.10, h.11⟩, ⟨rfl, rfl⟩, .inr ⟨e, u, rfl, hb, ht, hd, hc⟩⟩

theorem State.Keeps.refl (s : State) : s.Keeps s := ⟨rfl, rfl, rfl, rfl, rfl, rfl, rfl, rfl, rfl, rfl, rfl⟩

theorem State.parsed_keeps (s : State) (ws : List Byte) (p : PState) (l : Byte) (n : Nat) : s.Keeps (s.parsed ws p l n) :=
  ⟨rfl, rfl, rfl, rfl, rfl, rfl, rfl, rfl, rfl, rfl, rfl⟩

theorem State.checkBody_concludes (s : State) (who : Raiser) (d : Nat) : s.Concludes who (s.checkBody who d) := by
  rcases s.checkBody_cases who d with ⟨-, h⟩ | ⟨-, -, h⟩ | ⟨-, -, -, h⟩ | ⟨-, -, -, h⟩ <;> rw [h]
  · exact State.raise_concludes (.refl s) (by simp) (by simp) rfl rfl
  · exact State.raise_concludes (.refl s) (by simp) (by simp) rfl rfl
  · exact State.raise_concludes ⟨rfl, rfl, rfl, rfl, rfl, rfl, rfl, rfl, rfl, rfl, rfl⟩ (by simp) (by simp) rfl rfl
  · exact State.succeed_concludes ⟨rfl, rfl, rfl, rfl, rfl, rfl, rfl, rfl, rfl, rfl, rfl⟩ (by simp)

theorem State.decodeWindow_concludes (s : State) (who : Raiser) (d : Nat) (ws : List Byte) :
    s.Concludes who (s.decodeWindow who d ws) := by
  have ended : ∀ p l n, s.Concludes who ((s.parsed ws p l n).raise who .unexpectedEnd) := fun p l n =>
    State.raise_concludes (s.parsed_keeps ws p l n) (by simp) (by simp) rfl rfl
  rcases runParser_full_cases s.lreg ws with ⟨-, h⟩ | ⟨k, -, ⟨-, h⟩ | ⟨l, -, h⟩ | ⟨l, c, -, -, h⟩ | ⟨l, c, rest, -, -, h⟩ |
    ⟨l, c, f, rest, -, -, -, h⟩ | ⟨l, c, rest, -, -, h⟩⟩
  · rw [State.decodeWindow_ended h]; exact ended _ _ _
  · rw [State.decodeWindow_ended h]; exact ended _ _ _
  · rw [State.decodeWindow_ended h]; exact ended _ _ _
  · rw [State.decodeWindow_ended h]; exact ended _ _ _
  · rw [State.decodeWindow_failed h]; exact State.raise_concludes (s.parsed_keeps ..) (by simp) (by simp) rfl rfl
  · rw [State.decodeWindow_failed h]; exact State.raise_concludes (s.parsed_keeps ..) (by simp) (by simp) rfl rfl
  · rw [State.decodeWindow_complete h]
    obtain ⟨⟨h1, h2, h3, h4, h5, h6, h7, h8, h9, h10, h11⟩, hi, hh⟩ := (s.parsed ws .done l (k + 4)).checkBody_concludes who d
    exact ⟨⟨h1, h2, h3, h4, h5, h6, h7, h8, h9, h10, h11⟩, hi, hh⟩

theorem State.received_concludes (s : State) (who : Raiser) (d : Nat) (r : ReadyEnd) : s.Concludes who (s.received who d r) := by
  cases r with
  | terr e => exact State.raise_concludes (.refl s) (by simp) (by simp) rfl rfl
  | window ws => exact s.decodeWindow_concludes who d ws

theorem State.scanWindow_concludes (s : State) (ws : List Byte) : s.Concludes .other (s.scanWindow ws) := by
  rcases s.scanWindow_cases ws with ⟨-, h⟩ | ⟨k, -, h⟩ <;> rw [h]
  · exact State.raise_concludes (s.parsed_keeps ..) (by simp) (by simp) rfl rfl
  · exact State.succeed_concludes (s.parsed_keeps ..) (by simp)

/-- A scan leaves the client's destination and ACC and LREG (R211, R214). -/
theorem State.scanWindow_leaves (s : State) (ws : List Byte) :
    (s.scanWindow ws).dst = s.dst ∧ (s.scanWindow ws).rcount = s.rcount ∧ (s.scanWindow ws).acc = s.acc ∧
      (s.scanWindow ws).lreg = s.lreg := by
  rcases s.scanWindow_cases ws with ⟨-, h⟩ | ⟨k, -, h⟩ <;> simp [h, State.parsed]

/-! A wait and its continuation (R64). -/

/-- A ready-read that waited made every attempt there was, and goes on as if the later ones had been there. -/
theorem readyRead_later (n : Nat) (as bs : List ReadAttempt) (h : (readyRead n as).answer = none) :
    (readyRead n as).made = as ∧ (readyRead n as).left = [] ∧ readyRead n (as ++ bs) =
      { readyRead n bs with made := as ++ (readyRead n bs).made } := by
  induction as with
  | nil => simp [readyRead]
  | cons a as ih =>
    simp only [readyRead, List.cons_append] at h ⊢
    cases hr : a.result with
    | fail e => simp [hr] at h
    | bytes b =>
      simp only [hr] at h ⊢
      by_cases hb : ready (chunk n b) = true
      · simp [hb] at h
      · simp only [hb, Bool.false_eq_true, if_false] at h ⊢
        simp [Polled.after] at h ⊢
        simp [ih h]

end Sys2Proof.Machine
end

