-- ==== Sys2Proof/Laws/Inv.lean ====
section
/-! SUPPORT. The invariant, update by update: what each shared operation keeps of it. -/

namespace Sys2Proof.Machine

/-! Counting bus writes. -/

@[simp] theorem writesIn_append (xs ys : List BusEvent) : writesIn (xs ++ ys) = writesIn xs + writesIn ys := by
  induction xs with
  | nil => simp [writesIn]
  | cons x xs ih => cases x <;> simp [writesIn, ih]; omega

@[simp] theorem writesIn_reads (m : List ReadAttempt) : writesIn (m.map .read) = 0 := by
  induction m with
  | nil => rfl
  | cons a m ih => simpa [writesIn] using ih

/-- What the invariant says of a state in the middle of an operation: its byte spaces, the bus and the bound on RCOUNT. -/
structure State.Sound (s : State) : Prop where
  spaces : s.SpacesOk
  bus : s.BusOk
  count : ∀ b, s.rcount = some b → b.toNat ≤ 25

theorem State.Sound.succeed_inv {s : State} (h : s.Sound) (r : RStat) (hr : r ≠ .failed) : (s.succeed r).Inv := by
  refine ⟨⟨by simp⟩, ?_, ?_, ?_⟩
  · obtain ⟨h1, h2, h3, h4, h5, h6, h7, h8, h9⟩ := h.spaces
    constructor <;> simpa
  · constructor <;> simp [hr]; exact h.count
  · obtain ⟨h1, h2⟩ := h.bus
    constructor <;> simpa

/-- The errors an operation of a kind can raise (R253). -/
def Err.FitsRaiser (who : Raiser) (e : Err) : Prop :=
  (∀ b, e ≠ .invalidByte b .none) ∧
  match who with
  | .hdrParse => e = .invalidChecksumLength ∨ ∃ b x, e = .invalidByte b x
  | .recvTo => e ≠ .tooMuchData ∧ ∀ t, e ≠ .transportWrite t
  | .other => True

theorem State.Sound.raise_inv {s : State} (h : s.Sound) (who : Raiser) (e : Err) (he : Err.FitsRaiser who e) : (s.raise who e).Inv := by
  refine ⟨⟨by simp⟩, ?_, ?_, ?_⟩
  · obtain ⟨h1, h2, h3, h4, h5, h6, h7, h8, h9⟩ := h.spaces
    constructor <;> simpa
  · obtain ⟨g1, g2⟩ := he
    constructor
    · cases e <;> simp [Err.errcode]
    · cases e <;> simp [Err.errcode, Err.expected]; rename_i b x; rintro rfl; exact g1 b rfl
    · cases e <;> simp [Err.errcode, Err.byte]
    · cases e <;> simp [Err.errcode, Err.token]
    · cases who <;> cases e <;> simp_all [Raiser.wraps, Err.errcode]
    · cases who <;> cases e <;> simp_all [Raiser.rstat, Err.errcode]
    · cases who <;> simp [Raiser.rstat]
    · exact h.count
  · obtain ⟨h1, h2⟩ := h.bus
    constructor <;> simpa

theorem State.Sound.wait_inv {s : State} (h : s.Sound) (hr : s.RecordOk) (p : Pending) : (s.wait p).Inv := by
  refine ⟨⟨by simp⟩, ?_, ?_, ?_⟩
  · obtain ⟨h1, h2, h3, h4, h5, h6, h7, h8, h9⟩ := h.spaces
    constructor <;> simpa
  · obtain ⟨h1, h2, h3, h4, h5, h6, h7, h8⟩ := hr
    constructor <;> simpa
  · obtain ⟨h1, h2⟩ := h.bus
    constructor <;> simpa

theorem State.Sound.polled {s : State} (h : s.Sound) (m l) : (s.polled m l).Sound := by
  obtain ⟨⟨h1, h2, h3, h4, h5, h6, h7, h8, h9⟩, ⟨g1, g2⟩, k⟩ := h
  refine ⟨by constructor <;> simpa, ⟨?_, ?_⟩, by simpa⟩
  · intro e he
    simp at he
    rcases he with he | ⟨a, -, rfl⟩
    · exact g1 e he
    · trivial
  · simp [g2]

theorem State.Sound.pastDeadline {s : State} (h : s.Sound) (t) : (s.pastDeadline t).Sound := by
  obtain ⟨⟨h1, h2, h3, h4, h5, h6, h7, h8, h9⟩, ⟨g1, g2⟩, k⟩ := h
  refine ⟨by constructor <;> simpa, ⟨?_, ?_⟩, by simpa⟩
  · intro e he
    rcases List.mem_append.mp he with he | he
    · exact g1 e he
    · rw [List.mem_singleton.mp he]; trivial
  · simp [g2, writesIn]

theorem State.Inv.begin_sound {s : State} (h : s.Inv) : s.begin.Sound := by
  obtain ⟨⟨h1, h2, h3, h4, h5, h6, h7, h8, h9⟩, ⟨g1, g2⟩, k⟩ := And.intro h.spaces (And.intro h.bus h.record.count)
  exact ⟨by constructor <;> simpa, by constructor <;> simpa, by simpa⟩

theorem State.Inv.sound {s : State} (h : s.Inv) : s.Sound := ⟨h.spaces, h.bus, h.record.count⟩

theorem State.Sound.parsed {s : State} (h : s.Sound) {ws : List Byte} (hw : ready ws = true) (hl : ws.length ≤ 32) (p l n) (hn : n ≤ ws.length) : (s.parsed ws p l n).Sound := by
  obtain ⟨⟨h1, h2, h3, h4, h5, h6, h7, h8, h9⟩, ⟨g1, g2⟩, k⟩ := h
  exact ⟨⟨by simpa, by simpa, by simpa, by simp [State.parsed], by simp [State.parsed], by simpa [State.parsed],
    by simpa [State.parsed], by simp [State.parsed, hw], by simpa⟩, by constructor <;> simpa [State.parsed], by simpa [State.parsed]⟩

theorem State.Sound.setAcc {s : State} (h : s.Sound) (b) : (s.setAcc b).Sound := by
  obtain ⟨⟨h1, h2, h3, h4, h5, h6, h7, h8, h9⟩, ⟨g1, g2⟩, k⟩ := h
  exact ⟨by constructor <;> simpa, by constructor <;> simpa, by simpa⟩
theorem State.Sound.setRbyte {s : State} (h : s.Sound) (b) : (s.setRbyte b).Sound := by
  obtain ⟨⟨h1, h2, h3, h4, h5, h6, h7, h8, h9⟩, ⟨g1, g2⟩, k⟩ := h
  exact ⟨by constructor <;> simpa, by constructor <;> simpa, by simpa⟩
theorem State.Sound.setRpos {s : State} (h : s.Sound) (b) : (s.setRpos b).Sound := by
  obtain ⟨⟨h1, h2, h3, h4, h5, h6, h7, h8, h9⟩, ⟨g1, g2⟩, k⟩ := h
  exact ⟨by constructor <;> simpa, by constructor <;> simpa, by simpa⟩
theorem State.Sound.setParser {s : State} (h : s.Sound) (p l) : (s.setParser p l).Sound := by
  obtain ⟨⟨h1, h2, h3, h4, h5, h6, h7, h8, h9⟩, ⟨g1, g2⟩, k⟩ := h
  exact ⟨by constructor <;> simpa, by constructor <;> simpa, by simpa⟩
theorem State.Sound.presentPin {s : State} (h : s.Sound) (p) : (s.presentPin p).Sound := by
  obtain ⟨⟨h1, h2, h3, h4, h5, h6, h7, h8, h9⟩, ⟨g1, g2⟩, k⟩ := h
  exact ⟨⟨by simp, by simpa, by simpa, by simpa, by simpa, by simpa, by simpa, by simpa, by simpa⟩, by constructor <;> simpa, by simpa⟩

theorem State.Sound.deliver {s : State} (h : s.Sound) (p : List Byte) (hp : p.length ≤ 25) : (s.deliver p).Sound := by
  obtain ⟨⟨h1, h2, h3, h4, h5, h6, h7, h8, h9⟩, ⟨g1, g2⟩, k⟩ := h
  refine ⟨⟨by simpa, by simpa, by simpa, by simpa, by simpa, by simpa, by simpa, by simpa, ?_⟩, by constructor <;> simpa, ?_⟩
  · exact Memory.writeBytes_wf h9 _ _
  · simp; omega

theorem State.Sound.sendFrame {s : State} (h : s.Sound) (hp : s.pin.contents.length ≤ 254) : s.sendFrame.Sound := by
  obtain ⟨⟨h1, h2, h3, h4, h5, h6, h7, h8, h9⟩, ⟨g1, g2⟩, k⟩ := h
  have hf : (State.buildFrame s).fbuf.contents = frame s.pin.contents := by simp [State.buildFrame]
  refine ⟨?_, ⟨?_, ?_⟩, by simpa [State.sendFrame, State.buildFrame]⟩
  · refine ⟨by simpa [State.sendFrame, State.buildFrame], by simp [State.sendFrame, State.buildFrame], ?_, h4, h5, h6, h7, h8, h9⟩
    simp [State.sendFrame, State.buildFrame, frame]; omega
  · intro e he
    simp [State.sendFrame, hf] at he
    rcases he with he | rfl
    · exact g1 e (by simpa [State.buildFrame] using he)
    · exact frame_hostFrame hp
  · simp [State.sendFrame, writesIn, State.buildFrame, g2]

/-! Reset (R290). -/

/-- Reset makes the invariant out of its parts about the client's spaces and the bus. -/
theorem State.assertReset_inv {s : State} (hp : s.pin = Memory.ofBytes s.pin.contents) (hd : s.dst.wf) (hb : s.BusOk) :
    s.assertReset.Inv := by
  refine ⟨⟨by simp⟩, ⟨by simpa, by simp [Memory.contents, Memory.ofBytes, Memory.ofBytesFrom], by simp,
    by simp [Memory.contents, Memory.ofBytes, Memory.ofBytesFrom], by simp, by simp, by simp, by simp, by simpa⟩, ?_,
    ⟨by simpa using hb.frames, by simpa using hb.count⟩⟩
  constructor <;> simp

/-- An operation broken off between two states that meet the invariant leaves, after reset, one that meets it. -/
theorem State.Inv.brokenOff {s t : State} (hs : s.Inv) (ht : t.Inv) (n : Nat) : (s.brokenOff n t).assertReset.Inv := by
  refine State.assertReset_inv (by simpa using ht.spaces.pin) (by simpa using Memory.splice_wf ht.spaces.dst hs.spaces.dst _)
    ⟨fun e he => ?_, ?_⟩
  · simp only [State.brokenOff_trace, List.mem_append] at he
    exact he.elim (hs.bus.frames e) fun h => ht.bus.frames e (List.mem_of_mem_drop (List.mem_of_mem_take h))
  · simp [hs.bus.count]

theorem State.Inv.release {s : State} (h : s.Inv) : s.release.Inv := by
  obtain ⟨⟨a⟩, ⟨h1, h2, h3, h4, h5, h6, h7, h8, h9⟩, ⟨k1, k2, k3, k4, k5, k6, k7, k8⟩, ⟨g1, g2⟩⟩ := h
  exact ⟨⟨by simpa⟩, by constructor <;> simpa, by constructor <;> simpa, by constructor <;> simpa⟩

end Sys2Proof.Machine
end

