-- ==== Sys2Proof/Laws/PerInstr.lean ====
section
/-! SUPPORT. Statements made per instruction. -/

namespace Sys2Proof.Laws

/-- PortForm: the command that spells an operation passes the port's check (R110, R112, R113). -/
def PortForm.Statement (i : Instr) : Prop := (encode i).wellFormed = true

/-- The check, part by part, on the command byte and the idle lines. -/
theorem portForm_of {i : Instr} (cmd : Byte) (l : Lines) (hc : (encode i).cmd = cmd)
    (h : cmd.extractLsb' 4 4 = 0#4 ∧ linesOf (cmd.extractLsb' 0 4) = some l)
    (h3 : (encode i).idleOutside l = true) : PortForm.Statement i := by
  subst hc
  simp [PortForm.Statement, Command.wellFormed, Command.high, Command.op, h.1, h.2, h3]

theorem PortForm.csumFold (seed : Byte) (xs : List Byte) : PortForm.Statement (.csumFold seed xs) :=
  portForm_of 0#8 { seed := true, bytes := true } rfl (by decide) (by simp [encode, Command.idleOutside])
theorem PortForm.preScan (xs : List Byte) : PortForm.Statement (.preScan xs) :=
  portForm_of 1#8 { bytes := true } rfl (by decide) (by simp [encode, Command.idleOutside])
theorem PortForm.hdrParse (xs : List Byte) : PortForm.Statement (.hdrParse xs) :=
  portForm_of 2#8 { bytes := true } rfl (by decide) (by simp [encode, Command.idleOutside])
theorem PortForm.send (pin : List Byte) : PortForm.Statement (.send pin) :=
  portForm_of 3#8 { bytes := true } rfl (by decide) (by simp [encode, Command.idleOutside])
theorem PortForm.recv (dcap : Nat) : PortForm.Statement (.recv dcap) :=
  portForm_of 4#8 { dcap := true } rfl (by decide) (by simp [encode, Command.idleOutside])
theorem PortForm.recvTo (dcap : Nat) (t : Duration) : PortForm.Statement (.recvTo dcap t) :=
  portForm_of 5#8 { dcap := true, dur := true } rfl (by decide) (by simp [encode, Command.idleOutside])
theorem PortForm.recvAck : PortForm.Statement .recvAck :=
  portForm_of 6#8 {} rfl (by decide) (by simp [encode, Command.idleOutside])
theorem PortForm.sendAck (pin : List Byte) : PortForm.Statement (.sendAck pin) :=
  portForm_of 7#8 { bytes := true } rfl (by decide) (by simp [encode, Command.idleOutside])

end Sys2Proof.Laws
end

