-- ==== Sys2Proof/Laws/Step.lean ====
section
/-! SUPPORT. Everything one step can do: reset, going on with a waiting operation, or the client's next command. -/

namespace Sys2Proof.Machine

variable {s : State}

theorem step_released (h : s.resetIn = none) : step s = s.advance := by
  simp [step, h]

theorem step_reset {r : ResetPoint} (h : s.resetIn = some r) : step s = .next (s.atReset r).assertReset := by
  simp [step, h]

theorem State.release_eq (s : State) : s.release = { s with resetIn := none } := rfl

/-- With the reset input released a step is the plain one. -/
theorem step_release (s : State) : step s.release = s.release.advance := step_released rfl

@[simp] theorem State.atReset_between (s : State) : s.atReset .between = s := rfl

theorem State.atReset_next {n : Nat} {t : State} (h : s.release.advance = .next t) :
    s.atReset (.within n) = s.brokenOff n t := by
  simp [State.atReset, h]

theorem State.atReset_refused {n : Nat} {r : Refusal} (h : s.release.advance = .refused r) : s.atReset (.within n) = s := by
  simp [State.atReset, h]

theorem State.advance_busy (h : s.opstate = .busy) : s.advance = .next s.resume := by
  simp [State.advance, h]

theorem State.advance_waits (h : s.opstate = .idle) (hp : s.port = []) : s.advance = .next s := by
  simp [State.advance, h, hp]

theorem State.advance_command {c : Command} {rest : List Command} {i : Instr} (h : s.opstate = .idle)
    (hp : s.port = c :: rest) (hd : decode c = .ok i) : s.advance = exec i (s.takeCommand rest) := by
  simp [State.advance, h, hp, hd]

/-- Everything a step without reset can do. -/
theorem State.advance_cases (s : State) :
    (s.opstate = .busy ∧ s.advance = .next s.resume) ∨
    (s.opstate = .idle ∧ s.port = [] ∧ s.advance = .next s) ∨
    (∃ c rest r, s.opstate = .idle ∧ s.port = c :: rest ∧ decode c = .error r ∧ s.advance = .refused (.reservedCommand r)) ∨
    (∃ c rest i, s.opstate = .idle ∧ s.port = c :: rest ∧ decode c = .ok i ∧ s.advance = exec i (s.takeCommand rest)) := by
  cases ho : s.opstate with
  | busy => exact .inl ⟨rfl, State.advance_busy ho⟩
  | idle =>
    cases hp : s.port with
    | nil => exact .inr (.inl ⟨rfl, rfl, State.advance_waits ho hp⟩)
    | cons c rest =>
      cases hd : decode c with
      | error r => exact .inr (.inr (.inl ⟨c, rest, r, rfl, rfl, hd, by simp [State.advance, ho, hp, hd]⟩))
      | ok i => exact .inr (.inr (.inr ⟨c, rest, i, rfl, rfl, hd, State.advance_command ho hp hd⟩))

end Sys2Proof.Machine
end

