-- ==== Sys2Proof/Laws/Tokens.lean ====
section
/-! SUPPORT. The OPEN type of the transport's failure values (R6, D16, I4): every type that can be written out is one of the
token types, and whatever other values stand in the place of the failure values, every operation and every step does the
same with them. -/

namespace Sys2Proof.Machine

/-- Every type of failure values that holds a value and whose values can be told apart by what is written out of them is a
token type. -/
theorem tokens_are_any_type (α : Type) [Nonempty α] [Countable α] : ∃ p, Nonempty (α ≃ Tokens p) := by
  have toTokens : ∀ q : Nat → Bool, q 0 = true → Nonempty ({ n // q n = true } ≃ Tokens q) := fun q h0 =>
    ⟨⟨fun n => ⟨n.1, .inr n.2⟩, fun n => ⟨n.token, n.admitted.elim (fun h => h ▸ h0) id⟩, fun _ => rfl, fun _ => rfl⟩⟩
  rcases finite_or_infinite α with hf | hi
  · obtain ⟨k, ⟨e⟩⟩ := Finite.exists_equiv_fin α
    have hk : 0 < k := (e (Classical.arbitrary α)).pos
    obtain ⟨g⟩ := toTokens (fun n => decide (n < k)) (by simpa using hk)
    exact ⟨_, ⟨e.trans ((Fin.equivSubtype.trans (Equiv.subtypeEquivRight (by simp))).trans g)⟩⟩
  · obtain ⟨e⟩ : Nonempty (α ≃ Nat) := nonempty_equiv_of_countable
    obtain ⟨g⟩ := toTokens (fun _ => true) rfl
    exact ⟨_, ⟨e.trans ((Equiv.subtypeUnivEquiv fun _ => rfl).symm.trans g)⟩⟩

variable (f : TErr → TErr)

/-! A state with every failure value `e` in it replaced by `f e`. -/

def renameWrite : WriteResult → WriteResult
  | .ok => .ok
  | .terr e => .terr (f e)

def renameRead : ReadResult → ReadResult
  | .bytes bs => .bytes bs
  | .fail e => .fail (f e)

def renameAttempt (a : ReadAttempt) : ReadAttempt := { a with result := renameRead f a.result }

def renameEvent : BusEvent → BusEvent
  | .write xs r => .write xs (renameWrite f r)
  | .read a => .read (renameAttempt f a)
  | .unready t => .unready t

def renameErr : Err → Err
  | .transportWrite e => .transportWrite (f e)
  | .transportRead e => .transportRead (f e)
  | e => e

def renameEnd : ReadyEnd → ReadyEnd
  | .window ws => .window ws
  | .terr e => .terr (f e)

def renameTimed : TimedEnd → TimedEnd
  | .ready r => .ready (renameEnd f r)
  | .late => .late
  | .silent => .silent

def State.rename (s : State) : State :=
  { s with
    errtok := s.errtok.map f
    reads := s.reads.map (renameAttempt f)
    writeResults := s.writeResults.map (renameWrite f)
    trace := s.trace.map (renameEvent f) }

def renameAnswer : Answer → Answer
  | .next t => .next (t.rename f)
  | .fault x => .fault x
  | .refused r => .refused r

/-! The shared operations. -/

theorem raise_rename (who : Raiser) (e : Err) (s : State) :
    (s.raise who e).rename f = (s.rename f).raise who (renameErr f e) := by
  cases e <;> cases who <;> rfl

theorem readyRead_rename (n : Nat) (as : List ReadAttempt) :
    readyRead n (as.map (renameAttempt f)) =
      ⟨(readyRead n as).answer.map (renameEnd f), (readyRead n as).made.map (renameAttempt f),
        (readyRead n as).left.map (renameAttempt f)⟩ := by
  induction as with
  | nil => rfl
  | cons a as ih =>
    obtain ⟨r, took⟩ := a
    cases r with
    | fail e => rfl
    | bytes bs =>
      rw [List.map_cons]
      simp only [readyRead, renameAttempt, renameRead]
      split
      · rfl
      · rw [show List.map _ as = as.map (renameAttempt f) from rfl, ih]; rfl

theorem readyReadTimeout_rename (n : Nat) (t el : ℚ≥0) (as : List ReadAttempt) :
    readyReadTimeout n t el (as.map (renameAttempt f)) =
      ⟨renameTimed f (readyReadTimeout n t el as).answer, (readyReadTimeout n t el as).made.map (renameAttempt f),
        (readyReadTimeout n t el as).left.map (renameAttempt f)⟩ := by
  induction as generalizing el with
  | nil => rfl
  | cons a as ih =>
    obtain ⟨r, took⟩ := a
    cases r with
    | fail e => rfl
    | bytes bs =>
      rw [List.map_cons]
      simp only [readyReadTimeout, renameAttempt, renameRead, ReadAttempt.time]
      split
      · rfl
      · by_cases hl : t < el + (Config.pollDelay.ms + took.ms)
        · simp [hl, renameTimed, renameAttempt, renameRead]
        · simp only [hl, if_false]
          rw [show List.map _ as = as.map (renameAttempt f) from rfl, ih]; rfl

theorem polled_rename (made left : List ReadAttempt) (s : State) :
    (s.polled made left).rename f = (s.rename f).polled (made.map (renameAttempt f)) (left.map (renameAttempt f)) := by
  simp [State.rename, State.polled, Function.comp_def, renameEvent]

theorem checkBody_rename (who : Raiser) (d : Nat) (s : State) :
    (s.rename f).checkBody who d = (s.checkBody who d).rename f := by
  unfold State.checkBody
  simp only [show (s.rename f).lreg = s.lreg from rfl, show (s.rename f).win = s.win from rfl,
    show (s.rename f).idx = s.idx from rfl, show (s.rename f).nread = s.nread from rfl]
  split
  · rfl
  · split
    · rfl
    · split <;> rfl

theorem decodeWindow_rename (who : Raiser) (d : Nat) (ws : List Byte) (s : State) :
    (s.rename f).decodeWindow who d ws = (s.decodeWindow who d ws).rename f := by
  have up : ∀ p l n (e : Err), renameErr f e = e →
      ((s.rename f).parsed ws p l n).raise who e = ((s.parsed ws p l n).raise who e).rename f := by
    intro p l n e he
    rw [raise_rename, he]; rfl
  have fit : ∀ {r}, runParser .full s.lreg ws = r → runParser .full (s.rename f).lreg ws = r := id
  rcases runParser_full_cases s.lreg ws with ⟨-, h⟩ | ⟨k, -, ⟨-, h⟩ | ⟨l, -, h⟩ | ⟨l, c, -, -, h⟩ | ⟨l, c, rest, -, -, h⟩ |
    ⟨l, c, b, rest, -, -, -, h⟩ | ⟨l, c, rest, -, -, h⟩⟩
  · rw [State.decodeWindow_ended h, State.decodeWindow_ended (fit h)]; exact up _ _ _ _ rfl
  · rw [State.decodeWindow_ended h, State.decodeWindow_ended (fit h)]; exact up _ _ _ _ rfl
  · rw [State.decodeWindow_ended h, State.decodeWindow_ended (fit h)]; exact up _ _ _ _ rfl
  · rw [State.decodeWindow_ended h, State.decodeWindow_ended (fit h)]; exact up _ _ _ _ rfl
  · rw [State.decodeWindow_failed h, State.decodeWindow_failed (fit h)]; exact up _ _ _ _ rfl
  · rw [State.decodeWindow_failed h, State.decodeWindow_failed (fit h)]; exact up _ _ _ _ rfl
  · rw [State.decodeWindow_complete h, State.decodeWindow_complete (fit h)]
    exact checkBody_rename f who d (s.parsed ws .done l (k + 4))

theorem received_rename (who : Raiser) (d : Nat) (r : ReadyEnd) (s : State) :
    (s.rename f).received who d (renameEnd f r) = (s.received who d r).rename f := by
  cases r with
  | terr e => exact (raise_rename f who (.transportRead e) s).symm
  | window ws => exact decodeWindow_rename f who d ws s

theorem scanWindow_rename (ws : List Byte) (s : State) :
    (s.rename f).scanWindow ws = (s.scanWindow ws).rename f := by
  unfold State.scanWindow
  simp only [State.setWindow_lreg, State.setWindow_win, show (s.rename f).lreg = s.lreg from rfl]
  split <;> rfl

theorem recvFrom_rename (d : Nat) (s : State) : (s.rename f).recvFrom d = (s.recvFrom d).rename f := by
  simp only [State.recvFrom, show (s.rename f).reads = s.reads.map (renameAttempt f) from rfl, readyRead_rename,
    ← polled_rename]
  cases (readyRead Config.window s.reads).answer with
  | none => rfl
  | some r => exact received_rename f .other d r _

theorem recvToFrom_rename (d : Nat) (t : Duration) (s : State) :
    (s.rename f).recvToFrom d t = (s.recvToFrom d t).rename f := by
  simp only [State.recvToFrom, show (s.rename f).reads = s.reads.map (renameAttempt f) from rfl, readyReadTimeout_rename,
    ← polled_rename]
  cases (readyReadTimeout Config.window t.ms 0 s.reads).answer with
  | ready r => exact received_rename f .recvTo d r _
  | late => exact (raise_rename f .recvTo .timeout _).symm
  | silent =>
    simp only [renameTimed]
    rw [raise_rename]
    simp [renameErr, State.rename, State.pastDeadline, renameEvent]

theorem ackFrom_rename (p : Pending) (s : State) : (s.rename f).ackFrom p = (s.ackFrom p).rename f := by
  simp only [State.ackFrom, show (s.rename f).reads = s.reads.map (renameAttempt f) from rfl, readyRead_rename,
    ← polled_rename]
  cases (readyRead Config.window s.reads).answer with
  | none => rfl
  | some r =>
    cases r with
    | terr e => exact (raise_rename f .other (.transportRead e) _).symm
    | window ws => exact scanWindow_rename f ws _

/-- What the next bus write returns is renamed with the state: so it is wherever the outside world draws it, and past that
draw where the renaming leaves the free value alone. -/
theorem drawWrite_rename {s : State}
    (h : s.writeResults ≠ [] ∨ renameWrite f (Config.freeWriteResult s.writes) = Config.freeWriteResult s.writes) :
    (s.rename f).drawWrite = renameWrite f s.drawWrite := by
  cases hw : s.writeResults with
  | nil => simpa [State.drawWrite, State.rename, hw, eq_comm] using h
  | cons r rs => simp [State.drawWrite, State.rename, hw]

/-- The front of SEND and SEND.ACK. -/
theorem sendBody_rename {s : State} (hd : (s.rename f).drawWrite = renameWrite f s.drawWrite) (pin : List Byte) {k : State → State}
    (hk : ∀ u : State, k (u.rename f) = (k u).rename f) :
    (s.rename f).sendBody pin k = renameAnswer f (s.sendBody pin k) := by
  have hs : ((s.rename f).presentPin pin).sendFrame = ((s.presentPin pin).sendFrame).rename f := by
    have h1 : ((s.rename f).presentPin pin).buildFrame.drawWrite = (s.rename f).drawWrite := rfl
    have h2 : (s.presentPin pin).buildFrame.drawWrite = s.drawWrite := rfl
    simp only [State.sendFrame, State.busWrite, h1, h2, hd]
    simp [State.rename, State.buildFrame, State.setFrame, State.setAcc, State.presentPin, renameEvent]
  by_cases hl : tooLong (s.presentPin pin).pin.contents = true
  · have hl' : tooLong ((s.rename f).presentPin pin).pin.contents = true := hl
    simp only [State.sendBody, hl, hl', if_true, renameAnswer]
    rw [raise_rename]; rfl
  · have hl' : ¬ tooLong ((s.rename f).presentPin pin).pin.contents = true := hl
    simp only [State.sendBody, hl, hl', if_false, State.withTransport, Bool.false_eq_true]
    cases ha : s.attached
    · simp [State.rename, ha, renameAnswer]
    · simp only [State.presentPin_attached, ha, show (s.rename f).attached = s.attached from rfl, if_true, renameAnswer]
      congr 1
      simp only [State.sendThen, State.presentPin_drawWrite, hd]
      cases s.drawWrite with
      | ok => simp only [renameWrite, hs, hk]
      | terr e =>
        simp only [renameWrite, hs]
        exact (raise_rename f .other (.transportWrite e) _).symm

/-! The operations. -/

theorem accept_rename {s : State} {k : State → Answer} (h : k (s.begin.rename f) = renameAnswer f (k s.begin)) :
    (s.rename f).accept k = renameAnswer f (s.accept k) := by
  cases ho : s.opstate with
  | idle => rw [State.accept_idle ho, State.accept_idle (by exact ho)]; exact h
  | busy => rw [State.accept_busy ho, State.accept_busy (by exact ho)]; rfl

theorem transport_rename {s : State} {k : State → State} (h : k (s.rename f) = (k s).rename f) :
    (s.rename f).withTransport (fun s => .next (k s)) = renameAnswer f (s.withTransport fun s => .next (k s)) := by
  cases ha : s.attached
  · simp [State.withTransport, State.rename, ha, renameAnswer]
  · rw [State.withTransport_attached ha, State.withTransport_attached (by exact ha), h]; rfl

theorem scanSequence_rename (xs : List Byte) (s : State) : (s.rename f).scanSequence xs = (s.scanSequence xs).rename f := by
  unfold State.scanSequence
  simp only [show (s.rename f).lreg = s.lreg from rfl]
  split <;> rfl

theorem parseSequence_rename (xs : List Byte) (s : State) :
    (s.rename f).parseSequence xs = (s.parseSequence xs).rename f := by
  unfold State.parseSequence
  simp only [show (s.rename f).lreg = s.lreg from rfl]
  rcases runParser_full_cases s.lreg xs with ⟨-, h⟩ | ⟨k, -, ⟨-, h⟩ | ⟨l, -, h⟩ | ⟨l, c, -, -, h⟩ | ⟨l, c, rest, -, -, h⟩ |
    ⟨l, c, b, rest, -, -, -, h⟩ | ⟨l, c, rest, -, -, h⟩⟩ <;> simp only [h] <;> rfl

/-- Every operation does with the failure values `f e` what it does with the values `e` (R6, D16). -/
theorem exec_rename (i : Instr) {s : State} (hd : (s.rename f).drawWrite = renameWrite f s.drawWrite) :
    exec i (s.rename f) = renameAnswer f (exec i s) := by
  cases i with
  | csumFold seed xs => unfold exec execCsumFold; exact accept_rename f rfl
  | preScan xs => unfold exec execPreScan; exact accept_rename f (congrArg Host.Outcome.next (scanSequence_rename f xs s.begin))
  | hdrParse xs => unfold exec execHdrParse; exact accept_rename f (congrArg Host.Outcome.next (parseSequence_rename f xs s.begin))
  | send pin => unfold exec execSend; exact accept_rename f (sendBody_rename f (s := s.begin) hd pin fun _ => rfl)
  | recv d => unfold exec execRecv; exact accept_rename f (transport_rename f (recvFrom_rename f d s.begin))
  | recvTo d t => unfold exec execRecvTo; exact accept_rename f (transport_rename f (recvToFrom_rename f d t s.begin))
  | recvAck => unfold exec execRecvAck; exact accept_rename f (transport_rename f (ackFrom_rename f .recvAck s.begin))
  | sendAck pin => unfold exec execSendAck; exact accept_rename f (sendBody_rename f (s := s.begin) hd pin fun u => ackFrom_rename f .sendAck u)

/-! A step, and reset. -/

/-- So does a step with no reset asserted. -/
theorem advance_rename {s : State} (hd : (s.rename f).drawWrite = renameWrite f s.drawWrite) :
    (s.rename f).advance = renameAnswer f s.advance := by
  rcases s.advance_cases with ⟨ho, h⟩ | ⟨ho, hp, h⟩ | ⟨c, rest, r, ho, hp, hc, h⟩ | ⟨c, rest, i, ho, hp, hc, h⟩ <;> rw [h]
  · rw [State.advance_busy (by exact ho)]
    refine congrArg Host.Outcome.next ?_
    simp only [State.resume, show (s.rename f).pending = s.pending from rfl]
    split
    · rfl
    · exact recvFrom_rename f _ s
    · exact ackFrom_rename f _ s
    · exact ackFrom_rename f _ s
  · rw [State.advance_waits (by exact ho) (by exact hp)]; rfl
  · simp [State.advance, show (s.rename f).opstate = .idle from ho, show (s.rename f).port = c :: rest from hp, hc, renameAnswer]
  · rw [State.advance_command (by exact ho) (by exact hp) hc]
    exact exec_rename f i (s := s.takeCommand rest) hd

@[simp] theorem readsIn_rename (es : List BusEvent) : readsIn (es.map (renameEvent f)) = readsIn es := by
  induction es with
  | nil => rfl
  | cons e es ih => cases e <;> simp [renameEvent, readsIn, ih]

@[simp] theorem writesIn_rename (es : List BusEvent) : writesIn (es.map (renameEvent f)) = writesIn es := by
  induction es with
  | nil => rfl
  | cons e es ih => cases e <;> simp [renameEvent, writesIn, ih]

theorem brokenOff_rename (n : Nat) (s t : State) :
    (s.rename f).brokenOff n (t.rename f) = (s.brokenOff n t).rename f := by
  simp [State.brokenOff, State.rename, ← List.map_drop, ← List.map_take]

theorem atReset_rename (r : ResetPoint) {s : State} (hd : (s.rename f).drawWrite = renameWrite f s.drawWrite) :
    (s.rename f).atReset r = (s.atReset r).rename f := by
  cases r with
  | between => rfl
  | within n =>
    have h : (s.rename f).release.advance = renameAnswer f s.release.advance := advance_rename f (s := s.release) hd
    simp only [State.atReset, h]
    cases s.release.advance with
    | next t => exact brokenOff_rename f n s t
    | fault x => rfl
    | refused q => rfl

/-- So does every step, one with a reset asserted too. -/
theorem step_rename {s : State} (hd : (s.rename f).drawWrite = renameWrite f s.drawWrite) :
    step (s.rename f) = renameAnswer f (step s) := by
  cases h : s.resetIn with
  | none => rw [step_released h, step_released (by exact h)]; exact advance_rename f hd
  | some r => rw [step_reset h, step_reset (by exact h), atReset_rename f r hd]; rfl

/-- And what the client reads is the same register value, a failure value renamed. -/
theorem clientReg_rename (r : ClientReg) (s : State) :
    (s.rename f).clientReg r = (s.clientReg r).map fun v =>
      match v with
      | .num n => .num n
      | .tok e => .tok (f e) := by
  cases r <;> simp [State.clientReg, State.rename, Function.comp_def]

end Sys2Proof.Machine
end

