-- ==== Sys2Proof/Tests/Slice0.lean ====
section
/-! SUPPORT. Our own tests. Expected values come from the worked examples of spec/95_test_vectors.md, named beside each,
or from the encoding tables of 30_encoding.md. Then, for each statement with hypotheses, a witness that meets them. -/

namespace Sys2Proof.Tests

open Sys2Proof.Machine Sys2Proof.Claims

/-! Helpers. -/

/-- The next state, where there is one. -/
def reach (i : Instr) (s : State) : Option State :=
  match exec i s with
  | .next t => some t
  | _ => none

/-- A failure value of the transport: the one every type `TErr` is known to hold. -/
def lost : TErr := ⟨0, .inl rfl⟩

/-- A whole number of milliseconds. -/
def millis (n : Nat) : Duration := { num := n }

/-- A read attempt that is not ready: its first byte has bit 0 clear. -/
def quiet : ReadAttempt := { result := .bytes [0x00#8] }

/-- A read attempt that offers `ws`. -/
def offer (ws : List Byte) : ReadAttempt := { result := .bytes ws }

/-- An idle block on a bus that answers `reads` and accepts the next write; DST holds C0 C1. -/
def onBus (reads : List ReadAttempt) : State :=
  { State.reset with reads := reads, writeResults := [.ok], dst := Memory.ofBytes [0xC0#8, 0xC1#8] }

/-- An idle block whose next ready-read returns `ws` at its second attempt. -/
def replying (ws : List Byte) : State := onBus [quiet, offer ws]

/-! The port's checks (R110 to R113): one ill-formed command for each. -/

theorem test_wellFormed_accepts : (encode (.recvTo 32 (millis 500))).wellFormed = true := by decide
theorem test_wellFormed_high_nibble : ({ cmd := 0x13#8 } : Command).wellFormed = false := by decide
theorem test_wellFormed_high_bit : ({ cmd := 0x83#8 } : Command).wellFormed = false := by decide
theorem test_wellFormed_reserved_first : ({ cmd := 0x08#8 } : Command).wellFormed = false := by decide
theorem test_wellFormed_reserved_last : ({ cmd := 0x0F#8 } : Command).wellFormed = false := by decide
theorem test_wellFormed_stray_seed : ({ cmd := 0x01#8, seed := 1#8 } : Command).wellFormed = false := by decide
theorem test_wellFormed_stray_bytes : ({ cmd := 0x04#8, bytes := [0#8] } : Command).wellFormed = false := by decide
theorem test_wellFormed_stray_dcap : ({ cmd := 0x06#8, dcap := 1 } : Command).wellFormed = false := by decide
theorem test_wellFormed_stray_dur : ({ cmd := 0x04#8, dur := millis 1 } : Command).wellFormed = false := by decide

/-! Decoding (R111): the command byte of each row, bit by bit. -/

theorem test_decode_csumFold : decodeTableWord 8 0b00000000 = some (.csumFold 0x00#8 []) := by decide
theorem test_decode_preScan : decodeTableWord 8 0b00000001 = some (.preScan []) := by decide
theorem test_decode_hdrParse : decodeTableWord 8 0b00000010 = some (.hdrParse []) := by decide
theorem test_decode_send : decodeTableWord 8 0b00000011 = some (.send []) := by decide
theorem test_decode_recv : decodeTableWord 8 0b00000100 = some (.recv 0) := by decide
theorem test_decode_recvTo : decodeTableWord 8 0b00000101 = some (.recvTo 0 (millis 0)) := by decide
theorem test_decode_recvAck : decodeTableWord 8 0b00000110 = some .recvAck := by decide
theorem test_decode_sendAck : decodeTableWord 8 0b00000111 = some (.sendAck []) := by decide
theorem test_decode_reserved : decodeTableWord 8 0b00001000 = none ∧ decodeTableWord 8 0b00010000 = none := by decide
/-- R113, on a command with operands. -/
theorem test_decode_operands : decode { cmd := 0x07#8, bytes := [0x14#8, 0x01#8, 0x01#8] } = .ok (.sendAck [0x14#8, 0x01#8, 0x01#8]) :=
  rfl
/-- The line of 30_encoding.md, R114. -/
theorem test_asm : (Instr.recvTo 32 (millis 500)).asm = "recv.to 32, 500ms" ∧
    (Instr.recvTo 32 { num := 1, denPred := 1 }).asm = "recv.to 32, 1/2ms" ∧
    (Instr.send [0x2A#8, 0x0F#8]).asm = "send [0x2A, 0x0F]" := by decide

/-! One step each, from 95_test_vectors.md. -/

/-- 1.1: fold(253, [1, 2, 3]) = 3. -/
theorem test_csumFold_wraps :
    (reach (.csumFold 253#8 [1#8, 2#8, 3#8]) State.reset).map (fun t => (t.rbyte, t.acc, t.result)) =
      some (some 3#8, some 3#8, some .ok) := by decide
/-- 2.1: 0xFF + 0x01 wraps with no overflow signal; the empty sequence returns the seed. -/
theorem test_csumFold_corners :
    (reach (.csumFold 0xFF#8 [0x01#8]) State.reset).map (fun t => (t.rbyte, t.errcode)) = some (some 0#8, .none) ∧
    (reach (.csumFold 0x12#8 []) State.reset).map State.rbyte = some (some 0x12#8) := by decide

/-- 1.2 and 2.2: completion exactly on the 0xFF; a repeated 0x00 stays in ZERO. -/
theorem test_preScan_completes :
    (reach (.preScan [0x00#8, 0x01#8, 0x02#8, 0x03#8, 0x00#8, 0xFF#8]) State.reset).map (fun t => (t.rstat, t.rpos)) =
      some (.complete, some 6) ∧
    (reach (.preScan [0x00#8, 0x00#8, 0xFF#8]) State.reset).map (fun t => (t.rstat, t.rpos)) = some (.complete, some 3) := by
  decide
/-- 2.2: FE sends ZERO back to START. -/
theorem test_preScan_pending :
    (reach (.preScan [0x00#8, 0xFE#8, 0xFF#8]) State.reset).map (fun t => (t.rstat, t.rpos, t.result)) =
      some (.pending, some 3, some .ok) := by decide
/-- 2.2 and 2.5, the Restart column of I13: the literal reading of C1 does not complete on 00 00 FF. -/
theorem test_preScan_restart :
    (feed .restart .preambleOnly ⟨.start, 0#8⟩ 0 [0x00#8, 0x00#8, 0xFF#8]).how = .ended := by decide

/-- 1.3: the parse of the source's example. -/
theorem test_hdrParse_done :
    (reach (.hdrParse [0x00#8, 0x01#8, 0x02#8, 0x00#8, 0xFF#8, 0x01#8, 0xFF#8, 0xD5#8]) State.reset).map
      (fun t => (t.rstat, t.rbyte, t.rpos, t.pst)) = some (.complete, some 0x01#8, some 8, .done) := by decide
/-- 2.3: a bad TFI is the error, RBYTE unchanged. -/
theorem test_hdrParse_fails :
    (reach (.hdrParse [0x00#8, 0xFF#8, 0x01#8, 0xFF#8, 0x7F#8]) State.reset).map
      (fun t => (t.rstat, t.errcode, t.errbyte, t.rbyte, t.rpos)) =
      some (.failed, .invalidByte, 0x7F#8, none, some 5) := by decide

/-- 1.7: the frame of [0x14, 0x01, 0x01]. -/
theorem test_send_frame :
    (reach (.send [0x14#8, 0x01#8, 0x01#8]) (onBus [])).map (fun t => (t.trace, t.result)) =
      some ([.write [0x00#8, 0xFF#8, 0x04#8, 0xFC#8, 0xD4#8, 0x14#8, 0x01#8, 0x01#8, 0x16#8] .ok], some .ok) := by decide
/-- 2.4: the write fails; no retry. -/
theorem test_send_failure :
    (reach (.send [0x14#8, 0x01#8, 0x01#8]) { State.reset with writeResults := [.terr lost, .ok] }).map
      (fun t => (t.errcode, t.errtok, t.writes)) = some (.transportWrite, some lost, 1) := by decide

/-- 2.5: a leading 0x00 and a trailing byte; one byte of payload. -/
theorem test_recv_delivers :
    (reach (.recv 32) (replying [0x01#8, 0x00#8, 0x00#8, 0xFF#8, 0x02#8, 0xFE#8, 0xD5#8, 0x15#8, 0x16#8, 0x00#8])).map
      (fun t => (t.rcount, t.dst, t.idx, t.acc)) =
      some (some 1#8, Memory.ofBytes [0x15#8, 0xC1#8], 7, some 0x00#8) := by decide
/-- 1.5 and 2.5: the bad body leaves DST; a zero length is InvalidByte. -/
theorem test_recv_rejects :
    (reach (.recv 32) (replying [0x01#8, 0x00#8, 0xFF#8, 0x02#8, 0xFE#8, 0xD5#8, 0x2A#8, 0x00#8])).map
      (fun t => (t.errcode, t.dst, t.acc)) =
      some (.invalidChecksumData, Memory.ofBytes [0xC0#8, 0xC1#8], some 0xFF#8) ∧
    (reach (.recv 32) (replying [0x01#8, 0x00#8, 0xFF#8, 0x00#8, 0x00#8, 0xD5#8])).map (fun t => (t.errcode, t.errexp)) =
      some (.invalidByte, .atLeastOne) := by decide

/-- 2.6: ready on the first attempt, then the wrapped errors. -/
theorem test_recvTo_ready :
    (reach (.recvTo 32 (millis 500)) (onBus [offer [0x01#8, 0x00#8, 0xFF#8, 0x02#8, 0xFE#8, 0xD5#8, 0x2A#8, 0x01#8]])).map
      (fun t => (t.rcount, t.errwrap)) = some (some 1#8, false) ∧
    (reach (.recvTo 32 (millis 500)) (onBus [offer [0x01#8, 0x00#8, 0xFF#8, 0x03#8]])).map (fun t => (t.errcode, t.errwrap)) =
      some (.unexpectedEnd, true) := by decide
/-- An attempt of at least 6 ms is past a deadline of 5 ms, whatever POLL_DELAY is. -/
theorem late_wait : (millis 5).ms < waitTime ([] ++ [{ quiet with took := millis 6 }]) := by
  have h : (millis 6).ms ≤ waitTime ([] ++ [{ quiet with took := millis 6 }]) := by
    simp only [List.nil_append, waitTime_cons, waitTime_nil, add_zero, ReadAttempt.time_eq]
    exact le_add_self
  exact lt_of_lt_of_le (by simp [millis]; norm_num) h

theorem late_run :
    exec (.recvTo 32 (millis 5)) (onBus [{ quiet with took := millis 6 }]) =
      .next (((onBus [{ quiet with took := millis 6 }]).begin.polled [{ quiet with took := millis 6 }] []).raise .recvTo .timeout) :=
  exec_recvTo_next.mpr ⟨rfl, rfl,
    State.recvToFrom_expires (ws := []) rfl (by simp) ⟨_, rfl, rfl⟩ (by simp) late_wait 32⟩

/-- 1.6: a device that is not ready; an attempt past the deadline, whatever POLL_DELAY is, and (R70) a bus that never
answers, with 0 ms allowed. -/
theorem test_recvTo_times_out :
    (reach (.recvTo 32 (millis 5)) (onBus [{ quiet with took := millis 6 }])).map (fun t => (t.errcode, t.errwrap, t.nread)) =
      some (.timeout, false, 0) ∧
    (reach (.recvTo 32 (millis 0)) (onBus [])).map (fun t => (t.opstate, t.errcode, t.trace)) =
      some (.idle, .timeout, [.unready (millis 0)]) := by
  refine ⟨?_, by decide⟩
  rw [reach, late_run]
  rfl

/-- 2.7: a NACK is accepted, IDX 4. -/
theorem test_recvAck_nack :
    (reach .recvAck (replying [0x01#8, 0x00#8, 0x00#8, 0xFF#8, 0xFF#8, 0x00#8, 0x00#8])).map
      (fun t => (t.result, t.idx, t.pst)) = some (some .ok, 4, .zero) := by decide
/-- 2.7: the pair in the wrong order. -/
theorem test_recvAck_no_pair :
    (reach .recvAck (replying [0x01#8, 0xFF#8, 0x00#8])).map (fun t => (t.errcode, t.idx)) =
      some (.unexpectedEnd, 3) := by decide

/-- 3.1, P1 after send.ack. -/
theorem test_sendAck_program_P1 :
    (reach (.sendAck [0x14#8, 0x01#8, 0x01#8]) (onBus [offer [0x01#8, 0x00#8, 0x00#8, 0xFF#8, 0x00#8, 0xFF#8, 0x00#8]])).map
      (fun t => (t.result, t.acc, t.nread, t.idx, t.pst)) = some (some .ok, some 0xEA#8, 7, 4, .zero) := by decide
/-- 2.8: the read fails with e; the frame stays written. -/
theorem test_sendAck_read_fails :
    (reach (.sendAck [0x14#8, 0x01#8, 0x01#8]) (onBus [{ result := .fail lost }])).map
      (fun t => (t.errcode, t.errtok, t.errwrap, t.writes)) = some (.transportRead, some lost, false, 1) := by decide

/-! What the client reads (R20, R30): a register without a value is a fault, after an operation it is a number. -/

theorem test_client_reads :
    clientReadReg .rcount State.reset = .error (.noValue .rcount) ∧ clientReadReg .errcode State.reset = .ok (.num 0) ∧
    clientReadDst 1 (onBus []) = .ok 0xC1#8 ∧ clientReadDst 2 (onBus []) = .error (.noByte 2) ∧
    clientReadReg .result { State.reset with opstate := .busy } = .error .readWhileBusy := ⟨rfl, rfl, rfl, rfl, rfl⟩

/-! Reset within an operation (R290): before and after the bus write of SEND, and after the first byte RECV copies. -/

/-- An idle block with the reset input asserted within its next operation. -/
def resetting (n : Nat) (i : Instr) (s : State) : State := { s with port := [encode i], resetIn := some (.within n) }

/-- The state the next step leaves. -/
def stepped (s : State) : Option State :=
  match step s with
  | .next t => some t
  | _ => none

theorem test_reset_within_operation :
    (stepped (resetting 0 (.send [0x14#8]) (onBus []))).map (fun t => (t.opstate, t.trace)) = some (.idle, []) ∧
    (stepped (resetting 1 (.sendAck [0x14#8]) (onBus [quiet]))).map (fun t => (t.trace, t.reads, t.result)) =
      some ([.write [0x00#8, 0xFF#8, 0x02#8, 0xFE#8, 0xD4#8, 0x14#8, 0x18#8] .ok], [quiet], none) ∧
    (stepped (resetting 2 (.recv 32) (onBus [offer [0x01#8, 0x00#8, 0xFF#8, 0x03#8, 0xFD#8, 0xD5#8, 0x2A#8, 0x2B#8, 0xD6#8]]))).map
      (fun t => (t.dst, t.rcount, t.result)) = some (Memory.ofBytes [0x2A#8, 0xC1#8], none, none) := by decide

/-- A table word runs as the next step. -/
theorem test_withFetchWord_runs :
    step (State.reset.withFetchWord 8 0b00000011) = exec (.send []) State.reset := rfl

/-! Witnesses: for each statement with hypotheses, concrete values that meet all of them; for a statement with several
clauses, values for each clause. -/

/-- A window of one status byte and a 00 FF pair. -/
theorem header_after_status (tail : List Byte) : HeaderAt (0x01#8 :: 0x00#8 :: 0xFF#8 :: tail) 2 tail :=
  ⟨firstPair_append (lead := [0x01#8]) (noPair_of_lt (by unfold PairAt; decide)), rfl⟩

/-- A leading pair. -/
theorem header_at_front (tail : List Byte) : HeaderAt (0x00#8 :: 0xFF#8 :: tail) 1 tail :=
  ⟨firstPair_append (lead := []) (noPair_of_lt (by unfold PairAt; decide)), rfl⟩

theorem quiet_notReady : ∀ b ∈ [quiet], b.NotReady := by
  simp [ReadAttempt.NotReady, quiet, ready]

theorem offer_answers {ws : List Byte} (h : ready ws = true) (hl : ws.length ≤ 32) : (offer ws).Answers (.window ws) := by
  have := ReadAttempt.Answers.ready ws (millis 0) h
  rwa [List.take_of_length_le hl] at this

/-- The boundary of a wait: one quiet attempt takes exactly POLL_DELAY. -/
theorem quiet_wait : waitTime [quiet] ≤ Config.pollDelay.ms := by
  simp [quiet, ReadAttempt.time_eq]

theorem replying_answered {ws : List Byte} (h : ready ws = true) (hl : ws.length ≤ 32) :
    Answered (replying ws) [quiet] (offer ws) (.window ws) [] := ⟨rfl, quiet_notReady, offer_answers h hl⟩

/-- A bus whose second read fails. -/
def failing : State := onBus [quiet, { result := .fail lost }]

theorem failing_answered : Answered failing [quiet] { result := .fail lost } (.terr lost) [] :=
  ⟨rfl, quiet_notReady, .fail _ _⟩

/-- A window with the payload 2A and a byte after the frame. -/
def goodWindow : List Byte := [0x01#8, 0x00#8, 0xFF#8, 0x02#8, 0xFE#8, 0xD5#8, 0x2A#8, 0x01#8, 0x77#8]

/-- The same with a bad DCS. -/
def badWindow : List Byte := [0x01#8, 0x00#8, 0xFF#8, 0x02#8, 0xFE#8, 0xD5#8, 0x2A#8, 0x00#8]

theorem longest_fits (b : Byte) : (List.replicate 254 b).length ≤ 254 := List.length_replicate.le

theorem next_is_too_long (b : Byte) : 254 < (List.replicate 255 b).length := by rw [List.length_replicate]; decide

/-- Between two steps, waiting; within a SEND; and within a refused command. -/
theorem test_witness_ResetInputEndsAnyOperation :
    let waiting : State := { replying goodWindow with opstate := .busy, pending := some (.recv 32), resetIn := some .between }
    let bad : State := { onBus [] with port := [{ cmd := 0x08#8 }], resetIn := some (.within 3) }
    waiting.resetIn = some .between ∧
    (bad.resetIn = some (.within 3) ∧ ∃ q, step { bad with resetIn := none } = .refused q) ∧
    ∃ u new, (resetting 0 (.send [0x14#8]) (onBus [])).resetIn = some (.within 0) ∧
      step { resetting 0 (.send [0x14#8]) (onBus []) with resetIn := none } = .next u ∧ u.trace = (onBus []).trace ++ new :=
  ⟨rfl, ⟨rfl, _, rfl⟩, _, _, rfl, rfl, rfl⟩
theorem test_witness_ReservedCommandsAreRefused :
    let s (c : Command) : State := { State.reset with port := [c] }
    ((s { cmd := 0x08#8 }).resetIn = none ∧ Idle (s { cmd := 0x08#8 }) ∧ 8 ≤ (0x08#8 : Byte).toNat % 16) ∧
    (Idle (s { cmd := 0x10#8 }) ∧ 16 ≤ (0x10#8 : Byte).toNat) ∧
    (Idle (s { cmd := 0xFF#8, bytes := [1#8] }) ∧ 16 ≤ (0xFF#8 : Byte).toNat) := by
  simp [Idle, State.reset]
theorem test_witness_BusyBlockRefusesCommands : ({ State.reset with opstate := .busy } : State).opstate = .busy := rfl
theorem test_witness_StepRunsDecodedCommand :
    let s : State := { State.reset with port := [encode (.recv 32), encode .recvAck] }
    s.resetIn = none ∧ Idle s ∧ s.port = encode (.recv 32) :: [encode .recvAck] ∧ decode (encode (.recv 32)) = .ok (.recv 32) :=
  ⟨rfl, rfl, rfl, rfl⟩
theorem test_witness_IdleBlockWaitsForCommand : State.reset.resetIn = none ∧ Idle State.reset ∧ State.reset.port = [] :=
  ⟨rfl, rfl, rfl⟩
theorem test_witness_BusOperationsNeedTransport :
    (Idle { State.reset with attached := false } ∧ ({ State.reset with attached := false } : State).attached = false) ∧
    (List.replicate 254 0x00#8).length ≤ 254 ∧ 254 < (List.replicate 255 0x00#8).length :=
  ⟨⟨rfl, rfl⟩, longest_fits _, next_is_too_long _⟩
theorem test_witness_CsumFoldIsSumModulo256 : Idle State.reset := rfl
theorem test_witness_CsumFoldComposes :
    ∃ t, Idle State.reset ∧ exec (.csumFold 0xFF#8 [1#8]) State.reset = .next t ∧ t.rbyte = some 0#8 := ⟨_, rfl, rfl, rfl⟩
theorem test_witness_ParserFollowsTransitionTable :
    ((0x00#8 : Byte) = 0x00#8 ∧ (0x01#8 : Byte) ≠ 0x00#8) ∧ (0xFF#8 : Byte) = 0xFF#8 ∧
    ((0xFE#8 : Byte) ≠ 0x00#8 ∧ (0xFE#8 : Byte) ≠ 0xFF#8) ∧ ((0x01#8 : Byte).toNat + (0xFF#8 : Byte).toNat) % 256 = 0 ∧
    ((0x00#8 : Byte).toNat + (0xFF#8 : Byte).toNat) % 256 ≠ 0 ∧ (0xD5#8 : Byte) = 0xD5#8 ∧ (0xD4#8 : Byte) ≠ 0xD5#8 := by
  decide
theorem test_witness_PreScanCompletesAtFirstPair :
    Idle State.reset ∧ FirstPair [0x00#8, 0xFF#8] 1 ∧ FirstPair [0x00#8, 0x00#8, 0xFF#8, 0x00#8, 0xFF#8] 2 :=
  ⟨rfl, (header_at_front []).1, firstPair_append (lead := [0x00#8]) (noPair_of_lt (by unfold PairAt; decide))⟩
theorem test_witness_PreScanPendingWithoutPair :
    Idle State.reset ∧ NoPair [] ∧ NoPair [0xFF#8, 0x00#8] ∧ NoPair [0x00#8, 0xFE#8, 0xFF#8] :=
  ⟨rfl, noPair_of_lt (by unfold PairAt; decide), noPair_of_lt (by unfold PairAt; decide), noPair_of_lt (by unfold PairAt; decide)⟩
theorem test_witness_HdrParseReachesDone :
    Idle State.reset ∧ HeaderAt [0x00#8, 0xFF#8, 0x01#8, 0xFF#8, 0xD5#8] 1 [0x01#8, 0xFF#8, 0xD5#8] ∧
    HeaderAt [0x00#8, 0xFF#8, 0x00#8, 0x00#8, 0xD5#8, 0xAA#8] 1 [0x00#8, 0x00#8, 0xD5#8, 0xAA#8] ∧
    ((0x01#8 : Byte).toNat + (0xFF#8 : Byte).toNat) % 256 = 0 ∧ ((0x00#8 : Byte).toNat + (0x00#8 : Byte).toNat) % 256 = 0 :=
  ⟨rfl, header_at_front _, header_at_front _, rfl, rfl⟩
theorem test_witness_HdrParseFailsAtFirstBadByte :
    Idle State.reset ∧
    (HeaderAt [0x00#8, 0xFF#8, 0x01#8, 0xFE#8, 0x7F#8] 1 [0x01#8, 0xFE#8, 0x7F#8] ∧
      ((0x01#8 : Byte).toNat + (0xFE#8 : Byte).toNat) % 256 ≠ 0) ∧
    (HeaderAt [0x00#8, 0xFF#8, 0x01#8, 0xFF#8, 0xD4#8] 1 [0x01#8, 0xFF#8, 0xD4#8] ∧
      ((0x01#8 : Byte).toNat + (0xFF#8 : Byte).toNat) % 256 = 0 ∧ (0xD4#8 : Byte) ≠ 0xD5#8) :=
  ⟨rfl, ⟨header_at_front _, by decide⟩, header_at_front _, rfl, by decide⟩
theorem test_witness_HdrParsePendingAtInputEnd :
    Idle State.reset ∧ NoPair [] ∧ HeaderAt [0x00#8, 0xFF#8] 1 [] ∧ HeaderAt [0x00#8, 0xFF#8, 0x05#8] 1 [0x05#8] ∧
    (HeaderAt [0x00#8, 0xFF#8, 0x05#8, 0xFB#8] 1 [0x05#8, 0xFB#8] ∧ ((0x05#8 : Byte).toNat + (0xFB#8 : Byte).toNat) % 256 = 0) :=
  ⟨rfl, noPair_of_lt (by unfold PairAt; decide), header_at_front _, header_at_front _, header_at_front _, rfl⟩
theorem test_witness_StatusByteMakesNoDifference : ready [0x01#8] = true ∧ ready (0xFF#8 :: goodWindow) = true := by decide
theorem test_witness_SendWritesOneFrame :
    IdleOnBus (onBus []) ∧ ([] : List Byte).length ≤ 254 ∧ (List.replicate 254 0xFF#8).length ≤ 254 ∧
    (onBus []).drawWrite = .ok := ⟨⟨rfl, rfl⟩, by simp, longest_fits _, rfl⟩
theorem test_witness_SendRejectsLongPayload : Idle State.reset ∧ 254 < (List.replicate 255 0x00#8).length := ⟨rfl, next_is_too_long _⟩
theorem test_witness_SendRaisesWriteFailure :
    let s : State := { onBus [] with writeResults := [.terr lost] }
    IdleOnBus s ∧ (List.replicate 254 0x00#8).length ≤ 254 ∧ s.drawWrite = .terr lost := ⟨⟨rfl, rfl⟩, longest_fits _, rfl⟩
theorem test_witness_FrameBytesInFbuf :
    ([] : List Byte).length ≤ 254 ∧ (∃ t, exec (.send []) (onBus []) = .next t) ∧
    ∃ t, exec (.sendAck [0x14#8]) (replying goodWindow) = .next t := ⟨by simp, ⟨_, rfl⟩, _, rfl⟩
theorem test_witness_SendLeavesTheRest :
    (∃ t, exec (.send [0x14#8]) (onBus []) = .next t) ∧ ∃ t, exec (.sendAck [0x14#8]) (replying goodWindow) = .next t :=
  ⟨⟨_, rfl⟩, _, rfl⟩
theorem test_witness_RecvDeliversPayload :
    IdleOnBus (replying goodWindow) ∧ Answered (replying goodWindow) [quiet] (offer goodWindow) (.window goodWindow) [] ∧
    HeaderAt goodWindow 2 (0x02#8 :: 0xFE#8 :: 0xD5#8 :: ([0x2A#8] ++ 0x01#8 :: [0x77#8])) ∧
    ((0x02#8 : Byte).toNat + (0xFE#8 : Byte).toNat) % 256 = 0 ∧ (0x02#8 : Byte).toNat = [0x2A#8].length + 1 ∧
    (0xD5 + total [0x2A#8] + (0x01#8 : Byte).toNat) % 256 = 0 :=
  ⟨⟨rfl, rfl⟩, replying_answered rfl (by decide), header_after_status _, rfl, rfl, rfl⟩
/-- The empty payload, at once and with no time allowed; and a wait of exactly the time allowed. -/
theorem test_witness_RecvToDeliversPayload :
    let ws := [0x01#8, 0x00#8, 0xFF#8, 0x01#8, 0xFF#8, 0xD5#8, 0x2B#8]
    (IdleOnBus (onBus [offer ws]) ∧ Answered (onBus [offer ws]) [] (offer ws) (.window ws) [] ∧ waitTime [] ≤ (millis 0).ms) ∧
    (Answered (replying ws) [quiet] (offer ws) (.window ws) [] ∧ waitTime [quiet] ≤ Config.pollDelay.ms) ∧
    HeaderAt ws 2 (0x01#8 :: 0xFF#8 :: 0xD5#8 :: ([] ++ 0x2B#8 :: [])) ∧
    ((0x01#8 : Byte).toNat + (0xFF#8 : Byte).toNat) % 256 = 0 ∧ (0x01#8 : Byte).toNat = ([] : List Byte).length + 1 ∧
    (0xD5 + total [] + (0x2B#8 : Byte).toNat) % 256 = 0 :=
  ⟨⟨⟨rfl, rfl⟩, ⟨rfl, by simp, offer_answers rfl (by decide)⟩, zero_le⟩,
   ⟨replying_answered rfl (by decide), quiet_wait⟩, header_after_status _, rfl, rfl, rfl⟩
theorem test_witness_RecvRaisesHeaderErrors :
    let w1 := [0x01#8, 0x00#8, 0xFF#8, 0x02#8, 0xFD#8]
    let w2 := [0x01#8, 0x00#8, 0xFF#8, 0x02#8, 0xFE#8, 0xD4#8]
    (IdleOnBus (replying w1) ∧ Answered (replying w1) [quiet] (offer w1) (.window w1) [] ∧
      HeaderAt w1 2 (0x02#8 :: 0xFD#8 :: []) ∧ ((0x02#8 : Byte).toNat + (0xFD#8 : Byte).toNat) % 256 ≠ 0) ∧
    (IdleOnBus (replying w2) ∧ Answered (replying w2) [quiet] (offer w2) (.window w2) [] ∧
      HeaderAt w2 2 (0x02#8 :: 0xFE#8 :: 0xD4#8 :: []) ∧ ((0x02#8 : Byte).toNat + (0xFE#8 : Byte).toNat) % 256 = 0 ∧
      (0xD4#8 : Byte) ≠ 0xD5#8) :=
  ⟨⟨⟨rfl, rfl⟩, replying_answered rfl (by decide), header_after_status _, by decide⟩,
   ⟨rfl, rfl⟩, replying_answered rfl (by decide), header_after_status _, rfl, by decide⟩
theorem test_witness_RecvTruncatedIsUnexpectedEnd :
    let head : List Byte := [0x01#8, 0x00#8, 0xFF#8]
    let answered (ws : List Byte) := IdleOnBus (replying ws) ∧ Answered (replying ws) [quiet] (offer ws) (.window ws) []
    (answered [0x01#8] ∧ NoPair [0x01#8]) ∧ (answered head ∧ HeaderAt head 2 []) ∧
    (answered (head ++ [0x03#8]) ∧ HeaderAt (head ++ [0x03#8]) 2 [0x03#8]) ∧
    (answered (head ++ [0x03#8, 0xFD#8]) ∧ HeaderAt (head ++ [0x03#8, 0xFD#8]) 2 [0x03#8, 0xFD#8] ∧
      ((0x03#8 : Byte).toNat + (0xFD#8 : Byte).toNat) % 256 = 0) ∧
    (answered (head ++ [0x03#8, 0xFD#8, 0xD5#8, 0x2A#8, 0x2F#8]) ∧
      HeaderAt (head ++ [0x03#8, 0xFD#8, 0xD5#8, 0x2A#8, 0x2F#8]) 2 (0x03#8 :: 0xFD#8 :: 0xD5#8 :: [0x2A#8, 0x2F#8]) ∧
      [0x2A#8, 0x2F#8].length < (0x03#8 : Byte).toNat) :=
  ⟨⟨⟨⟨rfl, rfl⟩, replying_answered rfl (by decide)⟩, noPair_of_lt (by unfold PairAt; decide)⟩,
   ⟨⟨⟨rfl, rfl⟩, replying_answered rfl (by decide)⟩, header_after_status _⟩,
   ⟨⟨⟨rfl, rfl⟩, replying_answered rfl (by decide)⟩, header_after_status _⟩,
   ⟨⟨⟨rfl, rfl⟩, replying_answered rfl (by decide)⟩, header_after_status _, rfl⟩,
   ⟨⟨rfl, rfl⟩, replying_answered rfl (by decide)⟩, header_after_status _, by decide⟩
theorem test_witness_RecvRejectsZeroLength :
    let ws := [0x01#8, 0x00#8, 0xFF#8, 0x00#8, 0x00#8, 0xD5#8]
    IdleOnBus (replying ws) ∧ Answered (replying ws) [quiet] (offer ws) (.window ws) [] ∧
    HeaderAt ws 2 (0x00#8 :: 0x00#8 :: 0xD5#8 :: []) ∧ (0x00#8 : Byte).toNat % 256 = 0 :=
  ⟨⟨rfl, rfl⟩, replying_answered rfl (by decide), header_after_status _, rfl⟩
theorem test_witness_RecvRejectsBadDataChecksum :
    IdleOnBus (replying badWindow) ∧ Answered (replying badWindow) [quiet] (offer badWindow) (.window badWindow) [] ∧
    HeaderAt badWindow 2 (0x02#8 :: 0xFE#8 :: 0xD5#8 :: ([0x2A#8, 0x00#8] ++ [])) ∧
    ((0x02#8 : Byte).toNat + (0xFE#8 : Byte).toNat) % 256 = 0 ∧ (0x02#8 : Byte).toNat = [0x2A#8, 0x00#8].length ∧
    1 ≤ [0x2A#8, 0x00#8].length ∧ (0xD5 + total [0x2A#8, 0x00#8]) % 256 ≠ 0 :=
  ⟨⟨rfl, rfl⟩, replying_answered rfl (by decide), header_after_status _, rfl, rfl, by decide, by decide⟩
theorem test_witness_ReadFailureIsRaised :
    IdleOnBus failing ∧ Answered failing [quiet] { result := .fail lost } (.terr lost) [] ∧ waitTime [quiet] ≤ Config.pollDelay.ms :=
  ⟨⟨rfl, rfl⟩, failing_answered, quiet_wait⟩
theorem test_witness_RecvToWrapsErrorsOfRecv :
    IdleOnBus (replying badWindow) ∧ Answered (replying badWindow) [quiet] (offer badWindow) (.window badWindow) [] ∧
    waitTime [quiet] ≤ Config.pollDelay.ms := ⟨⟨rfl, rfl⟩, replying_answered rfl (by decide), quiet_wait⟩
theorem test_witness_RecvToTimesOut :
    let late : ReadAttempt := { quiet with took := millis 6 }
    (IdleOnBus (onBus [late]) ∧ (onBus [late]).reads = [] ++ late :: [] ∧ late.NotReady ∧ waitTime [] ≤ (millis 5).ms ∧
      (millis 5).ms < waitTime ([] ++ [late])) ∧
    ((onBus [quiet, late]).reads = [quiet] ++ late :: [] ∧ (∀ b ∈ [quiet], b.NotReady) ∧
      waitTime [quiet] ≤ Config.pollDelay.ms ∧ Config.pollDelay.ms < waitTime ([quiet] ++ [late])) ∧
    IdleOnBus (onBus []) ∧ (∀ b ∈ (onBus []).reads, b.NotReady) ∧ waitTime (onBus []).reads ≤ (millis 0).ms :=
  ⟨⟨⟨rfl, rfl⟩, rfl, ⟨_, rfl, rfl⟩, zero_le, late_wait⟩,
   ⟨rfl, quiet_notReady, quiet_wait, by simp [quiet, ReadAttempt.time_eq, millis]⟩, ⟨rfl, rfl⟩, by simp [onBus], zero_le⟩
/-- A Timeout by a drawn attempt, and one past the drawn attempts. -/
theorem test_witness_TimeoutOnlyAfterDeadline :
    (∃ u, exec (.recvTo 32 (millis 5)) (onBus [{ quiet with took := millis 6 }]) = .next u ∧ u.opstate = .idle ∧
      u.errcode = .timeout) ∧
    ∃ u, exec (.recvTo 32 (millis 5)) (onBus []) = .next u ∧ u.opstate = .idle ∧ u.errcode = .timeout :=
  ⟨⟨_, late_run, rfl, rfl⟩, _, rfl, rfl, rfl⟩
theorem test_witness_ReceiveWaitsWhileNotReady :
    (IdleOnBus (onBus [quiet]) ∧ (∀ a ∈ (onBus [quiet]).reads, a.NotReady)) ∧
    (IdleOnBus (onBus []) ∧ (∀ a ∈ (onBus []).reads, a.NotReady)) :=
  ⟨⟨⟨rfl, rfl⟩, quiet_notReady⟩, ⟨rfl, rfl⟩, by simp [onBus]⟩
theorem test_witness_BlockedReadNeverEnds :
    let s (p : Pending) : State := { onBus [quiet] with opstate := .busy, pending := some p }
    (∀ p, (s p).resetIn = none ∧ (s p).opstate = .busy ∧ ∀ a ∈ (s p).reads, a.NotReady) ∧
    (∃ d, (s (.recv 32)).pending = some (.recv d)) ∧ (s .recvAck).pending = some .recvAck ∧
    (s .sendAck).pending = some .sendAck :=
  ⟨fun _ => ⟨rfl, rfl, quiet_notReady⟩, ⟨32, rfl⟩, rfl, rfl⟩
theorem test_witness_LaterAnswersGiveSameEnd :
    ∃ w, (onBus [quiet]).resetIn = none ∧ exec (.sendAck [0x14#8]) (onBus [quiet]) = .next w ∧ w.opstate = .busy :=
  ⟨_, rfl, rfl, rfl⟩
theorem test_witness_ReceiveLeavesTheRest :
    (∃ u, exec (.recv 32) (onBus [quiet]) = .next u ∧ u.opstate = .busy) ∧
    ∃ u, exec (.recvTo 32 (millis 0)) (onBus [offer badWindow]) = .next u ∧ u.result = some .err := ⟨⟨_, rfl, rfl⟩, _, rfl, rfl⟩
theorem test_witness_AcceptedWindowCarriesValidFrame :
    (∃ u, exec (.recv 32) (replying goodWindow) = .next u ∧ u.opstate = .idle ∧ u.result = some .ok) ∧
    ∃ u, exec (.recvTo 0 (millis 0)) (onBus [offer goodWindow]) = .next u ∧ u.opstate = .idle ∧ u.result = some .ok :=
  ⟨⟨_, rfl, rfl, rfl⟩, _, rfl, rfl, rfl⟩
/-- 2.5, the largest payload one window carries: 25 bytes. -/
theorem test_witness_OneWindowCarriesAtMost25Bytes :
    let ws : List Byte := [0x01#8, 0x00#8, 0xFF#8, 0x1A#8, 0xE6#8, 0xD5#8] ++ (List.range 25).map (fun i => BitVec.ofNat 8 (i + 1)) ++ [0xE6#8]
    ∃ u, exec (.recv 32) (onBus [offer ws]) = .next u ∧ u.opstate = .idle ∧ u.result = some .ok ∧ u.rcount = some 25#8 :=
  ⟨_, rfl, rfl, rfl, rfl⟩
theorem test_witness_WindowHoldsTheReadyChunk :
    IdleOnBus (replying [0x01#8]) ∧ Answered (replying [0x01#8]) [quiet] (offer [0x01#8]) (.window [0x01#8]) [] :=
  ⟨⟨rfl, rfl⟩, replying_answered rfl (by decide)⟩
theorem test_witness_HostFrameIsNeverReceived :
    let p := List.replicate 254 0x00#8
    let s := onBus [quiet, offer (0x01#8 :: frameOf p)]
    IdleOnBus s ∧ p.length ≤ 254 ∧ (0x01#8 : Byte).getLsbD 0 = true ∧
    s.reads = [quiet] ++ ⟨.bytes (0x01#8 :: frameOf p), millis 0⟩ :: [] ∧ ∀ x ∈ [quiet], x.NotReady :=
  ⟨⟨rfl, rfl⟩, longest_fits _, rfl, rfl, quiet_notReady⟩
theorem test_witness_RecvAckAcceptsFirstPair :
    IdleOnBus (replying goodWindow) ∧ Answered (replying goodWindow) [quiet] (offer goodWindow) (.window goodWindow) [] ∧
    FirstPair goodWindow 2 := ⟨⟨rfl, rfl⟩, replying_answered rfl (by decide), (header_after_status _).1⟩
theorem test_witness_RecvAckWithoutPairFails :
    IdleOnBus (replying [0x01#8, 0x00#8]) ∧
    Answered (replying [0x01#8, 0x00#8]) [quiet] (offer [0x01#8, 0x00#8]) (.window [0x01#8, 0x00#8]) [] ∧
    NoPair [0x01#8, 0x00#8] := ⟨⟨rfl, rfl⟩, replying_answered rfl (by decide), noPair_of_lt (by unfold PairAt; decide)⟩
theorem test_witness_SendAckWritesThenReads :
    IdleOnBus (replying goodWindow) ∧ (List.replicate 254 0x00#8).length ≤ 254 ∧ (replying goodWindow).drawWrite = .ok ∧
    Answered (replying goodWindow) [quiet] (offer goodWindow) (.window goodWindow) [] ∧ FirstPair goodWindow 2 :=
  ⟨⟨rfl, rfl⟩, longest_fits _, rfl, replying_answered rfl (by decide), (header_after_status _).1⟩
theorem test_witness_SendAckKeepsFrameOnAckFailure :
    let s := replying [0x01#8, 0xFF#8, 0x00#8]
    (IdleOnBus s ∧ s.drawWrite = .ok ∧ Answered s [quiet] (offer [0x01#8, 0xFF#8, 0x00#8]) (.window [0x01#8, 0xFF#8, 0x00#8]) [] ∧
      NoPair [0x01#8, 0xFF#8, 0x00#8]) ∧
    (IdleOnBus failing ∧ failing.drawWrite = .ok ∧ Answered failing [quiet] { result := .fail lost } (.terr lost) []) ∧
    (IdleOnBus (onBus [quiet]) ∧ (onBus [quiet]).drawWrite = .ok ∧ ∀ b ∈ (onBus [quiet]).reads, b.NotReady) :=
  ⟨⟨⟨rfl, rfl⟩, rfl, replying_answered rfl (by decide), noPair_of_lt (by unfold PairAt; decide)⟩,
   ⟨⟨rfl, rfl⟩, rfl, failing_answered⟩, ⟨rfl, rfl⟩, rfl, quiet_notReady⟩
theorem test_witness_SendAckIsSendThenRecvAck :
    (∃ t, exec (.send [0x14#8]) { onBus [] with writeResults := [.terr lost] } = .next t ∧ t.result = some .err) ∧
    (∃ t u, exec (.send [0x14#8]) (replying goodWindow) = .next t ∧ t.result = some .ok ∧ exec .recvAck t = .next u ∧
      u.opstate = .idle) ∧
    ∃ t u, exec (.send [0x14#8]) (onBus [quiet]) = .next t ∧ t.result = some .ok ∧ exec .recvAck t = .next u ∧
      u.opstate = .busy := ⟨⟨_, rfl, rfl⟩, ⟨_, _, rfl, rfl, rfl, rfl⟩, _, _, rfl, rfl, rfl, rfl⟩
theorem test_witness_RecvAckLeavesTheRest : ∃ t, exec .recvAck (replying goodWindow) = .next t := ⟨_, rfl⟩
/-- For BusTraceOfEachOperation and AtMostOneReadyReadPerOperation: every operation has a next state. -/
theorem test_witness_BusTraceOfEachOperation (i : Instr)
    (hi : i ∈ [.csumFold 0#8 [1#8], .preScan [], .hdrParse [], .send [0x14#8], .recv 32, .recvTo 32 (millis 0), .recvAck, .sendAck [0x14#8]]) :
    ∃ t, exec i (onBus [offer goodWindow]) = .next t := by
  simp only [List.mem_cons, List.not_mem_nil, or_false] at hi
  rcases hi with rfl | rfl | rfl | rfl | rfl | rfl | rfl | rfl <;> exact ⟨_, rfl⟩
theorem test_witness_AtMostOneReadyReadPerOperation : ∃ t, exec (.sendAck []) (onBus [quiet, offer badWindow, quiet]) = .next t :=
  ⟨_, rfl⟩
theorem test_witness_EveryOperationEndsOrWaits : IdleOnBus State.reset := ⟨rfl, rfl⟩
theorem test_witness_SuccessClearsErrorRecord :
    ∃ t, exec (.recv 32) { replying goodWindow with errcode := .transportRead, errtok := some lost } = .next t ∧ t.opstate = .idle ∧
      t.result = some .ok := ⟨_, rfl, rfl, rfl⟩
theorem test_witness_ErrorRecordFollowsItsRule :
    (∃ t, exec (.recvTo 32 (millis 0)) (onBus [offer badWindow]) = .next t ∧ t.opstate = .idle ∧ t.result = some .err ∧
      t.errcode ≠ .invalidByte) ∧
    ∃ t, exec (.hdrParse [0x00#8, 0xFF#8, 0x01#8, 0xFF#8, 0xD4#8]) State.reset = .next t ∧ t.opstate = .idle ∧
      t.result = some .err ∧ t.errcode = .invalidByte := ⟨⟨_, rfl, rfl, rfl, by decide⟩, _, rfl, rfl, rfl, rfl⟩
/-- A block waiting in RECV whose transport has just answered: it meets the invariant and has a next state. -/
theorem test_witness_StepKeepsInvariant :
    let s : State := { onBus [offer goodWindow] with opstate := .busy, pending := some (.recv 32), rcount := some 25#8 }
    s.Inv ∧ ∃ t, step s = .next t := by
  refine ⟨⟨⟨by simp, by simp⟩, ?_, ?_, ?_⟩, _, rfl⟩
  · constructor <;> (try rfl) <;> (try decide)
  · constructor <;> simp [onBus, State.reset]
  · constructor <;> simp [onBus, State.reset, writesIn]
theorem test_witness_HiddenStateCarriesNothing :
    ({ State.reset with acc := some 1#8, pst := .lcs, lreg := 2#8, fbuf := Memory.ofBytes [3#8] } : State) ≠ State.reset ∧
    ({ State.reset with acc := some 1#8, pst := .lcs, lreg := 2#8, fbuf := Memory.ofBytes [3#8] } : State).clientView =
      State.reset.clientView := ⟨by decide, rfl⟩
theorem test_witness_RoundTripThroughDevice :
    IdleOnBus (onBus []) ∧ (List.replicate 25 0x2A#8).length ≤ 25 ∧ (onBus []).drawWrite = .ok := ⟨⟨rfl, rfl⟩, by simp, rfl⟩

/-- A waiting block, and an idle one with bytes 0 and 1 of DST written and byte 2 not. -/
theorem test_witness_ClientReadsResultRegisters :
    ({ onBus [] with opstate := .busy, pending := some .recvAck } : State).opstate = .busy ∧
    ((onBus []).opstate = .idle ∧ (onBus []).dst.read 1 = some 0xC1#8 ∧ (onBus []).dst.read 2 = none) :=
  ⟨rfl, rfl, rfl, rfl⟩

end Sys2Proof.Tests
end

section
/-! PROOFS. The invariant (O55, O56): each part of an operation ends in a state that meets it, so every operation, every
step and reset keep it. -/

namespace Sys2Proof.Machine

/-! What a ready window and a parser run over it can be. -/

/-- A ready-read's window is ready and holds at most 32 bytes (R65, R72). -/
theorem ReadAttempt.Answers.window_ready {a : ReadAttempt} {ws : List Byte} (h : a.Answers (.window ws)) :
    Machine.ready ws = true ∧ ws.length ≤ 32 := by
  cases h with
  | ready bs took hb => exact ⟨(ready_chunk bs).trans hb, by simp⟩

/-- The status byte of a ready window is odd, so no pair begins with it (R182). -/
theorem FirstPair.two_le_of_ready {ws : List Byte} {k : Nat} (h : FirstPair ws k) (hr : ready ws = true) : 2 ≤ k := by
  by_contra hk
  obtain rfl : k = 1 := by have := h.pos; omega
  cases ws with
  | nil => simp [ready] at hr
  | cons b bs =>
    obtain rfl : b = 0x00#8 := by simpa using h.1.2.1
    simp [ready] at hr

/-- A run consumes no more bytes than there are. -/
theorem feed_consumed_le (z : ZeroInZeroFound) (m : Mode) (p : Parser) (n : Nat) (xs : List Byte) :
    (feed z m p n xs).consumed ≤ n + xs.length := by
  induction xs generalizing p n with
  | nil => simp [feed]
  | cons b bs ih =>
    simp only [feed, List.length_cons]
    cases parserStep z m p b with
    | next p' => exact (ih p' (n + 1)).trans (by omega)
    | complete => simp
    | fail e => simp
    | terminal => simp

theorem runParser_consumed_le (m : Mode) (l : Byte) (xs : List Byte) : (runParser m l xs).consumed ≤ xs.length := by
  simpa [runParser] using feed_consumed_le Config.zeroInZeroFound m ⟨.start, l⟩ 0 xs

/-- The only errors of the parser are those of LCS and TFI (R158, R160). -/
theorem runParser_full_failed {l : Byte} {xs : List Byte} {e : Err} (h : (runParser .full l xs).how = .failed e) :
    e = .invalidChecksumLength ∨ ∃ b, e = .invalidByte b .tfiD2H := by
  rcases runParser_full_cases l xs with ⟨-, hr⟩ | ⟨k, -, ⟨-, hr⟩ | ⟨_, -, hr⟩ | ⟨_, _, -, -, hr⟩ | ⟨_, _, _, -, -, hr⟩ |
    ⟨_, _, b, _, -, -, -, hr⟩ | ⟨_, _, _, -, -, hr⟩⟩ <;> simp [hr] at h
  · exact .inl h.symm
  · exact .inr ⟨b, h.symm⟩

/-- A header found in a ready window takes at least six bytes: the status byte, the pair, LEN, LCS and TFI. -/
theorem runParser_full_complete {l : Byte} {ws : List Byte} (hw : ready ws = true)
    (h : (runParser .full l ws).how = .complete) : 6 ≤ (runParser .full l ws).consumed := by
  rcases runParser_full_cases l ws with ⟨-, hr⟩ | ⟨k, hk, ⟨-, hr⟩ | ⟨_, -, hr⟩ | ⟨_, _, -, -, hr⟩ | ⟨_, _, _, -, -, hr⟩ |
    ⟨_, _, _, _, -, -, -, hr⟩ | ⟨_, _, _, -, -, hr⟩⟩ <;> simp [hr] at h ⊢
  have := hk.two_le_of_ready hw
  omega

/-! The record while an operation runs: nothing writes it before the end. -/

theorem State.RecordOk.begin {s : State} (h : s.RecordOk) : s.begin.RecordOk := ⟨h.1, h.2, h.3, h.4, h.5, h.6, h.7, h.8⟩

theorem State.RecordOk.presentPin {s : State} (h : s.RecordOk) (p : List Byte) : (s.presentPin p).RecordOk :=
  ⟨h.1, h.2, h.3, h.4, h.5, h.6, h.7, h.8⟩

theorem State.RecordOk.sendFrame {s : State} (h : s.RecordOk) : s.sendFrame.RecordOk :=
  ⟨h.1, h.2, h.3, h.4, h.5, h.6, h.7, h.8⟩

theorem State.RecordOk.polled {s : State} (h : s.RecordOk) (made left : List ReadAttempt) : (s.polled made left).RecordOk :=
  ⟨h.1, h.2, h.3, h.4, h.5, h.6, h.7, h.8⟩

/-- Every operation but HDR.PARSE may raise an error that is neither of SEND's (R253). -/
theorem Err.FitsRaiser.of_receive {who : Raiser} {e : Err} (hw : who ≠ .hdrParse) (hb : ∀ b, e ≠ .invalidByte b .none)
    (hl : e ≠ .tooMuchData) (ht : ∀ t, e ≠ .transportWrite t) : Err.FitsRaiser who e := by
  cases who with
  | hdrParse => exact absurd rfl hw
  | recvTo => exact ⟨hb, hl, ht⟩
  | other => exact ⟨hb, trivial⟩

/-! The parts of the operations. -/

section
variable {s : State}

theorem State.Sound.setFed (h : s.Sound) (f : Fed) : (s.setFed f).Sound := h.setParser _ _

theorem State.Sound.scanSequence_inv (h : s.Sound) (xs : List Byte) : (s.scanSequence xs).Inv := by
  have hs := (h.setFed (runParser .preambleOnly s.lreg xs)).setRpos (runParser .preambleOnly s.lreg xs).consumed
  cases hh : (runParser .preambleOnly s.lreg xs).how with
  | complete => simpa only [State.scanSequence, hh] using hs.succeed_inv .complete (by simp)
  | failed e => simpa only [State.scanSequence, hh] using hs.succeed_inv .pending (by simp)
  | ended => simpa only [State.scanSequence, hh] using hs.succeed_inv .pending (by simp)

theorem State.Sound.parseSequence_inv (h : s.Sound) (xs : List Byte) : (s.parseSequence xs).Inv := by
  have hs := (h.setFed (runParser .full s.lreg xs)).setRpos (runParser .full s.lreg xs).consumed
  cases hh : (runParser .full s.lreg xs).how with
  | complete => simpa only [State.parseSequence, hh] using (hs.setRbyte _).succeed_inv .complete (by simp)
  | failed e =>
    have he : Err.FitsRaiser .hdrParse e := by
      rcases runParser_full_failed hh with rfl | ⟨b, rfl⟩ <;> simp [Err.FitsRaiser]
    simpa only [State.parseSequence, hh] using hs.raise_inv .hdrParse e he
  | ended => simpa only [State.parseSequence, hh] using hs.succeed_inv .pending (by simp)

/-- The checks after a header of at least six bytes leave at most 26 for the body, its checksum among them (R194). -/
theorem State.Sound.checkBody_inv (h : s.Sound) (hi : 6 ≤ s.idx) {who : Raiser} (hw : who ≠ .hdrParse) (d : Nat) :
    (s.checkBody who d).Inv := by
  rcases s.checkBody_cases who d with ⟨-, e⟩ | ⟨-, -, e⟩ | ⟨-, -, -, e⟩ | ⟨hl, hz, -, e⟩ <;> rw [e]
  · exact h.raise_inv _ _ (.of_receive hw (by simp) (by simp) (by simp))
  · exact h.raise_inv _ _ (.of_receive hw (by simp) (by simp) (by simp))
  · exact (h.setAcc _).raise_inv _ _ (.of_receive hw (by simp) (by simp) (by simp))
  · refine ((h.setAcc _).deliver _ ?_).succeed_inv _ (by simp)
    have := h.spaces.window
    simp only [List.length_take]
    omega

theorem State.Sound.decodeWindow_inv (h : s.Sound) {ws : List Byte} (hr : ready ws = true) (hl : ws.length ≤ 32)
    {who : Raiser} (hw : who ≠ .hdrParse) (d : Nat) : (s.decodeWindow who d ws).Inv := by
  have hn := runParser_consumed_le .full s.lreg ws
  rcases hf : runParser .full s.lreg ws with ⟨how, ⟨p, l⟩, n⟩
  rw [hf] at hn
  have hs : (s.parsed ws p l n).Sound := h.parsed hr hl p l n hn
  cases how with
  | ended =>
    rw [State.decodeWindow_ended hf]
    exact hs.raise_inv _ _ (.of_receive hw (by simp) (by simp) (by simp))
  | failed e =>
    rw [State.decodeWindow_failed hf]
    rcases runParser_full_failed (congrArg Fed.how hf) with rfl | ⟨b, rfl⟩
    · exact hs.raise_inv _ _ (.of_receive hw (by simp) (by simp) (by simp))
    · exact hs.raise_inv _ _ (.of_receive hw (by simp) (by simp) (by simp))
  | complete =>
    rw [State.decodeWindow_complete hf]
    have hi := runParser_full_complete hr (congrArg Fed.how hf)
    rw [hf] at hi
    exact hs.checkBody_inv hi hw d

theorem State.Sound.received_inv (h : s.Sound) {a : ReadAttempt} {r : ReadyEnd} (ha : a.Answers r) {who : Raiser}
    (hw : who ≠ .hdrParse) (d : Nat) : (s.received who d r).Inv := by
  cases r with
  | terr e => exact h.raise_inv _ _ (.of_receive hw (by simp) (by simp) (by simp))
  | window ws => exact h.decodeWindow_inv ha.window_ready.1 ha.window_ready.2 hw d

theorem State.Sound.scanWindow_inv (h : s.Sound) {ws : List Byte} (hr : ready ws = true) (hl : ws.length ≤ 32) :
    (s.scanWindow ws).Inv := by
  rcases s.scanWindow_cases ws with ⟨-, e⟩ | ⟨k, hk, e⟩ <;> rw [e]
  · exact (h.parsed hr hl _ _ _ le_rfl).raise_inv _ _ (by simp [Err.FitsRaiser])
  · exact (h.parsed hr hl _ _ _ hk.lt_length).succeed_inv _ (by simp)

theorem State.Sound.recvFrom_inv (h : s.Sound) (hr : s.RecordOk) (d : Nat) : (s.recvFrom d).Inv := by
  rcases attempts_cases s.reads with hw | ⟨ws, a, r, rest, e, hw, ha⟩
  · rw [State.recvFrom_waits hw]
    exact (h.polled _ _).wait_inv (hr.polled _ _) _
  · rw [State.recvFrom_answers e hw ha]
    exact (h.polled _ _).received_inv ha (by simp) d

theorem State.Sound.recvToFrom_inv (h : s.Sound) (d : Nat) (t : Duration) : (s.recvToFrom d t).Inv := by
  rcases s.recvToFrom_cases d t with ⟨-, -, e⟩ | ⟨ws, a, r, rest, -, -, ha, -, e⟩ | ⟨ws, a, rest, -, -, -, -, -, e⟩ <;> rw [e]
  · exact ((h.polled _ _).pastDeadline t).raise_inv _ _ (by simp [Err.FitsRaiser])
  · exact (h.polled _ _).received_inv ha (by simp) d
  · exact (h.polled _ _).raise_inv _ _ (by simp [Err.FitsRaiser])

theorem State.Sound.ackFrom_inv (h : s.Sound) (hr : s.RecordOk) (p : Pending) : (s.ackFrom p).Inv := by
  rcases attempts_cases s.reads with hw | ⟨ws, a, r, rest, e, hw, ha⟩
  · rw [State.ackFrom_waits hw]
    exact (h.polled _ _).wait_inv (hr.polled _ _) p
  · cases r with
    | terr x =>
      rw [State.ackFrom_fails e hw ha]
      exact (h.polled _ _).raise_inv _ _ (by simp [Err.FitsRaiser])
    | window w =>
      rw [State.ackFrom_window e hw ha]
      exact (h.polled _ _).scanWindow_inv ha.window_ready.1 ha.window_ready.2

/-- SEND's front keeps the invariant when what follows the frame does. -/
theorem State.Sound.sendBody_inv (h : s.Sound) (hr : s.RecordOk) {p : List Byte} {k : State → State} {t : State}
    (hk : ∀ u : State, u.Sound → u.RecordOk → (k u).Inv) (ht : s.sendBody p k = .next t) : t.Inv := by
  rcases State.sendBody_next.mp ht with ⟨-, rfl⟩ | ⟨hl, -, rfl⟩
  · exact (h.presentPin p).raise_inv _ _ (by simp [Err.FitsRaiser])
  · have hs : (s.presentPin p).sendFrame.Sound := (h.presentPin p).sendFrame (by simpa using hl)
    cases hd : s.drawWrite with
    | ok =>
      rw [State.sendThen_ok (by simpa using hd)]
      exact hk _ hs (hr.presentPin p).sendFrame
    | terr e =>
      rw [State.sendThen_terr (by simpa using hd)]
      exact hs.raise_inv _ _ (by simp [Err.FitsRaiser])

/-! Operations and steps. -/

/-- Every operation keeps the invariant. -/
theorem State.Inv.exec {i : Instr} {t : State} (h : s.Inv) (ht : exec i s = .next t) : t.Inv := by
  have hs := h.begin_sound
  have hr := h.record.begin
  cases i with
  | csumFold seed xs =>
    obtain ⟨-, rfl⟩ := exec_csumFold_next.mp ht
    exact ((hs.setAcc _).setRbyte _).succeed_inv _ (by simp)
  | preScan xs =>
    obtain ⟨-, rfl⟩ := exec_preScan_next.mp ht
    exact hs.scanSequence_inv xs
  | hdrParse xs =>
    obtain ⟨-, rfl⟩ := exec_hdrParse_next.mp ht
    exact hs.parseSequence_inv xs
  | send pin => exact hs.sendBody_inv hr (fun _ hu _ => hu.succeed_inv _ (by simp)) (exec_send_next.mp ht).2
  | recv d =>
    obtain ⟨-, -, rfl⟩ := exec_recv_next.mp ht
    exact hs.recvFrom_inv hr d
  | recvTo d w =>
    obtain ⟨-, -, rfl⟩ := exec_recvTo_next.mp ht
    exact hs.recvToFrom_inv d w
  | recvAck =>
    obtain ⟨-, -, rfl⟩ := exec_recvAck_next.mp ht
    exact hs.ackFrom_inv hr _
  | sendAck pin => exact hs.sendBody_inv hr (fun _ hu hv => hu.ackFrom_inv hv _) (exec_sendAck_next.mp ht).2

theorem State.Inv.takeCommand (h : s.Inv) (rest : List Command) : (s.takeCommand rest).Inv := by
  obtain ⟨⟨a⟩, ⟨h1, h2, h3, h4, h5, h6, h7, h8, h9⟩, ⟨k1, k2, k3, k4, k5, k6, k7, k8⟩, ⟨g1, g2⟩⟩ := h
  exact ⟨⟨a⟩, ⟨h1, h2, h3, h4, h5, h6, h7, h8, h9⟩, ⟨k1, k2, k3, k4, k5, k6, k7, k8⟩, ⟨g1, g2⟩⟩

/-- Going on with a waiting operation keeps the invariant. -/
theorem State.Inv.resume (h : s.Inv) : s.resume.Inv := by
  unfold State.resume
  split
  · exact h
  · exact h.sound.recvFrom_inv h.record _
  · exact h.sound.ackFrom_inv h.record _
  · exact h.sound.ackFrom_inv h.record _

theorem State.Inv.advance {t : State} (h : s.Inv) (ht : s.advance = .next t) : t.Inv := by
  rcases s.advance_cases with ⟨-, e⟩ | ⟨-, -, e⟩ | ⟨c, rest, r, -, -, -, e⟩ | ⟨c, rest, i, -, -, -, e⟩ <;> rw [e] at ht
  · cases ht; exact h.resume
  · cases ht; exact h
  · cases ht
  · exact (h.takeCommand rest).exec ht

/-- A reset finds the state as it was, or the operation of its step broken off (R290). -/
theorem State.atReset_cases (s : State) (r : ResetPoint) :
    s.atReset r = s ∨ ∃ n t, s.release.advance = .next t ∧ s.atReset r = s.brokenOff n t := by
  cases r with
  | between => exact .inl rfl
  | within n =>
    cases hq : s.release.advance with
    | next t => exact .inr ⟨n, t, rfl, State.atReset_next hq⟩
    | fault f => exact .inl (by simp [State.atReset, hq])
    | refused q => exact .inl (State.atReset_refused hq)

/-- Reset at any point leaves a state that meets the invariant. -/
theorem State.Inv.reset (h : s.Inv) (r : ResetPoint) : (s.atReset r).assertReset.Inv := by
  rcases s.atReset_cases r with e | ⟨n, t, ht, e⟩ <;> rw [e]
  · exact State.assertReset_inv h.spaces.pin h.spaces.dst h.bus
  · exact h.brokenOff (h.release.advance ht) n

end

/-- Settles O56: a step with the reset input asserted is reset, any other advances the block, and both keep the invariant. -/
theorem stepKeepsInvariant : Obligations.StepKeepsInvariant := by
  intro s t h ht
  cases hr : s.resetIn with
  | none => exact h.advance (step_released hr ▸ ht)
  | some r =>
    rw [step_reset hr] at ht
    cases ht
    exact h.reset r

/-- Settles O55: the reset state is what asserting reset makes of itself. -/
theorem resetStateSatisfiesInvariant : Obligations.ResetStateSatisfiesInvariant :=
  State.assertReset_inv (s := State.reset) rfl List.Pairwise.nil ⟨fun _ h => absurd h List.not_mem_nil, rfl⟩

end Sys2Proof.Machine
end

section
/-! PROOFS. Noninterference (O58, R29): what the client sees after an operation or a step is the same whether it starts from
a state or from that state with its hidden part wiped out. -/

namespace Sys2Proof.Machine

/-! The client's view, update by update. An update of hidden state is not seen. -/

section
variable (s : State)

@[simp] theorem State.clientView_clientView : s.clientView.clientView = s.clientView := rfl

@[simp] theorem State.setAcc_clientView (b : Byte) : (s.setAcc b).clientView = s.clientView := rfl
@[simp] theorem State.setFed_clientView (f : Fed) : (s.setFed f).clientView = s.clientView := rfl
@[simp] theorem State.setIdx_clientView (n : Nat) : (s.setIdx n).clientView = s.clientView := rfl
@[simp] theorem State.setWindow_clientView (ws : List Byte) : (s.setWindow ws).clientView = s.clientView := rfl

/-! An update of what the client sees acts on the view. -/

@[simp] theorem State.raise_clientView (who : Raiser) (e : Err) : (s.raise who e).clientView = s.clientView.raise who e := rfl
@[simp] theorem State.succeed_clientView (r : RStat) : (s.succeed r).clientView = s.clientView.succeed r := rfl
@[simp] theorem State.setRbyte_clientView (b : Byte) : (s.setRbyte b).clientView = s.clientView.setRbyte b := rfl
@[simp] theorem State.setRpos_clientView (n : Nat) : (s.setRpos n).clientView = s.clientView.setRpos n := rfl
@[simp] theorem State.deliver_clientView (p : List Byte) : (s.deliver p).clientView = s.clientView.deliver p := rfl
@[simp] theorem State.polled_clientView (made left : List ReadAttempt) :
    (s.polled made left).clientView = s.clientView.polled made left := rfl
@[simp] theorem State.pastDeadline_clientView (t : Duration) : (s.pastDeadline t).clientView = s.clientView.pastDeadline t := rfl
@[simp] theorem State.wait_clientView (p : Pending) : (s.wait p).clientView = s.clientView.wait p := rfl

/-- The frame sent is made of PIN alone, so the client sees one bus write of it. -/
@[simp] theorem State.sendFrame_clientView : s.sendFrame.clientView = s.clientView.busWrite (frame s.pin.contents) := by
  have hf : s.buildFrame.fbuf.contents = frame s.pin.contents := Memory.contents_ofBytes _
  rw [State.sendFrame, hf]
  rfl

end

/-! The parser's runs start without LREG (R150). -/

/-- A full run that read LEN is the same whatever LREG was; any other ended early, and LREG is as it was. -/
theorem runParser_full_lreg (xs : List Byte) :
    (∃ f, ∀ l, runParser .full l xs = f) ∨ ∃ p n, ∀ l, runParser .full l xs = ⟨.ended, ⟨p, l⟩, n⟩ := by
  rcases noPair_or_firstPair xs with h | ⟨k, h⟩
  · exact .inr ⟨_, _, fun l => runParser_noPair .full l h⟩
  · cases hd : xs.drop (k + 1) with
    | nil => exact .inr ⟨.len, k + 1, fun l => by rw [runParser_firstPair .full l h, hd, afterPair_nil]⟩
    | cons len rest =>
      have hlen (l : Byte) : afterPair .full l (k + 1) (len :: rest) = afterPair .full 0#8 (k + 1) (len :: rest) := rfl
      exact .inl ⟨_, fun l => by rw [runParser_firstPair .full l h, hd, hlen]⟩

/-- A scan never touches LREG, and goes the same way whatever LREG is. -/
theorem runParser_scan_lreg (xs : List Byte) :
    ∃ how p n, ∀ l, runParser .preambleOnly l xs = ⟨how, ⟨p, l⟩, n⟩ := by
  rcases noPair_or_firstPair xs with h | ⟨k, h⟩
  · exact ⟨_, _, _, fun l => runParser_noPair .preambleOnly l h⟩
  · exact ⟨.complete, .zero, k + 1, fun l => by rw [runParser_firstPair .preambleOnly l h, afterPair_scan]⟩

/-! The parts of the operations: from a state and from its view, with the same result to the client. -/

section
variable (s : State)

theorem State.scanSequence_clientView (xs : List Byte) :
    (s.clientView.scanSequence xs).clientView = (s.scanSequence xs).clientView := by
  obtain ⟨how, p, n, h⟩ := runParser_scan_lreg xs
  cases how <;> simp [State.scanSequence, h]

theorem State.parseSequence_clientView (xs : List Byte) :
    (s.clientView.parseSequence xs).clientView = (s.parseSequence xs).clientView := by
  rcases runParser_full_lreg xs with ⟨⟨how, p, n⟩, h⟩ | ⟨p, n, h⟩
  · cases how <;> simp [State.parseSequence, h]
  · simp [State.parseSequence, h]

theorem State.scanWindow_clientView (ws : List Byte) :
    (s.clientView.scanWindow ws).clientView = (s.scanWindow ws).clientView := by
  obtain ⟨how, p, n, h⟩ := runParser_scan_lreg ws
  cases how <;> simp [State.scanWindow, h]

/-- The checks after DONE read hidden state, but only what the same operation has just written: the window and the header. -/
theorem State.checkBody_clientView {s t : State} (hv : s.clientView = t.clientView) (hl : s.lreg = t.lreg)
    (hi : s.idx = t.idx) (hn : s.nread = t.nread) (hw : s.win = t.win) (who : Raiser) (d : Nat) :
    (s.checkBody who d).clientView = (t.checkBody who d).clientView := by
  simp only [State.checkBody, hl, hi, hn, hw]
  split
  · simp [hv]
  · split
    · simp [hv]
    · split <;> simp [hv]

theorem State.decodeWindow_clientView (who : Raiser) (d : Nat) (ws : List Byte) :
    (s.clientView.decodeWindow who d ws).clientView = (s.decodeWindow who d ws).clientView := by
  rcases runParser_full_lreg ws with ⟨⟨how, p, l⟩, h⟩ | ⟨p, n, h⟩
  · cases how with
    | complete =>
      rw [State.decodeWindow_complete (h _), State.decodeWindow_complete (h _)]
      apply State.checkBody_clientView <;> rfl
    | failed e => rw [State.decodeWindow_failed (h _), State.decodeWindow_failed (h _)]; rfl
    | ended => rw [State.decodeWindow_ended (h _), State.decodeWindow_ended (h _)]; rfl
  · rw [State.decodeWindow_ended (h _), State.decodeWindow_ended (h _)]; rfl

theorem State.received_clientView (who : Raiser) (d : Nat) (r : ReadyEnd) :
    (s.clientView.received who d r).clientView = (s.received who d r).clientView := by
  cases r with
  | terr e => rfl
  | window ws => exact s.decodeWindow_clientView who d ws

theorem State.recvFrom_clientView (d : Nat) : (s.clientView.recvFrom d).clientView = (s.recvFrom d).clientView := by
  simp only [State.recvFrom, show s.clientView.reads = s.reads from rfl]
  cases (readyRead Config.window s.reads).answer with
  | none => rfl
  | some r => exact State.received_clientView (s.polled _ _) .other d r

theorem State.recvToFrom_clientView (d : Nat) (t : Duration) :
    (s.clientView.recvToFrom d t).clientView = (s.recvToFrom d t).clientView := by
  simp only [State.recvToFrom, show s.clientView.reads = s.reads from rfl]
  cases (readyReadTimeout Config.window t.ms 0 s.reads).answer with
  | ready r => exact State.received_clientView (s.polled _ _) .recvTo d r
  | late => rfl
  | silent => rfl

theorem State.ackFrom_clientView (p : Pending) : (s.clientView.ackFrom p).clientView = (s.ackFrom p).clientView := by
  simp only [State.ackFrom, show s.clientView.reads = s.reads from rfl]
  cases (readyRead Config.window s.reads).answer with
  | none => rfl
  | some r =>
    cases r with
    | terr e => rfl
    | window ws => exact State.scanWindow_clientView (s.polled _ _) ws

theorem State.resume_clientView : s.clientView.resume.clientView = s.resume.clientView := by
  simp only [State.resume, show s.clientView.pending = s.pending from rfl]
  split
  · rfl
  · exact s.recvFrom_clientView _
  · exact s.ackFrom_clientView _
  · exact s.ackFrom_clientView _

/-! The answers of the operations. -/

theorem viewOf_next {s t : State} : viewOf (.next s) = viewOf (.next t) ↔ s.clientView = t.clientView := by
  simp [viewOf]

theorem accept_clientView {s : State} {k : State → Answer} (h : viewOf (k s.begin.clientView) = viewOf (k s.begin)) :
    viewOf (s.clientView.accept k) = viewOf (s.accept k) := by
  cases ho : s.opstate with
  | idle => rw [State.accept_idle ho, State.accept_idle (by exact ho)]; exact h
  | busy => rw [State.accept_busy ho, State.accept_busy (by exact ho)]

theorem withTransport_clientView {s : State} {k : State → State} (h : (k s.clientView).clientView = (k s).clientView) :
    viewOf (s.clientView.withTransport fun s => .next (k s)) = viewOf (s.withTransport fun s => .next (k s)) := by
  simp only [State.withTransport, show s.clientView.attached = s.attached from rfl]
  split
  · exact viewOf_next.mpr h
  · rfl

/-- Sending, then going on with `k`, where `k` does not look at hidden state. -/
theorem sendThen_clientView {s : State} {k : State → State}
    (hk : ∀ u v : State, u.clientView = v.clientView → (k u).clientView = (k v).clientView) :
    (s.clientView.sendThen k).clientView = (s.sendThen k).clientView := by
  have hs : s.clientView.sendFrame.clientView = s.sendFrame.clientView := by
    rw [State.sendFrame_clientView, State.sendFrame_clientView]
    rfl
  simp only [State.sendThen, show s.clientView.drawWrite = s.drawWrite from rfl]
  cases s.drawWrite with
  | ok => exact hk _ _ hs
  | terr e => simp [hs]

theorem sendBody_clientView {s : State} {k : State → State}
    (hk : ∀ u v : State, u.clientView = v.clientView → (k u).clientView = (k v).clientView) (pin : List Byte) :
    viewOf (s.clientView.sendBody pin k) = viewOf (s.sendBody pin k) := by
  simp only [State.sendBody, State.presentPin_pin, Memory.contents_ofBytes]
  cases tooLong pin with
  | true => rfl
  | false => exact withTransport_clientView (s := s.presentPin pin) (sendThen_clientView hk)

/-- An operation is the same to the client with the hidden state wiped out. -/
theorem exec_clientView (i : Instr) : viewOf (exec i s.clientView) = viewOf (exec i s) := by
  cases i with
  | csumFold seed xs => unfold exec execCsumFold; exact accept_clientView rfl
  | preScan xs => unfold exec execPreScan; exact accept_clientView (viewOf_next.mpr (s.begin.scanSequence_clientView xs))
  | hdrParse xs => unfold exec execHdrParse; exact accept_clientView (viewOf_next.mpr (s.begin.parseSequence_clientView xs))
  | send pin =>
    unfold exec execSend
    refine accept_clientView (sendBody_clientView (fun u v h => ?_) pin)
    rw [State.succeed_clientView, h, State.succeed_clientView]
  | recv d => unfold exec execRecv; exact accept_clientView (withTransport_clientView (s.begin.recvFrom_clientView d))
  | recvTo d t => unfold exec execRecvTo; exact accept_clientView (withTransport_clientView (s.begin.recvToFrom_clientView d t))
  | recvAck => unfold exec execRecvAck; exact accept_clientView (withTransport_clientView (s.begin.ackFrom_clientView .recvAck))
  | sendAck pin =>
    unfold exec execSendAck
    refine accept_clientView (sendBody_clientView (fun u v h => ?_) pin)
    rw [← u.ackFrom_clientView, h, v.ackFrom_clientView]

/-! A step, and reset. -/

theorem advance_clientView : viewOf s.clientView.advance = viewOf s.advance := by
  rcases s.advance_cases with ⟨ho, h⟩ | ⟨ho, hp, h⟩ | ⟨c, rest, r, ho, hp, hc, h⟩ | ⟨c, rest, i, ho, hp, hc, h⟩ <;> rw [h]
  · rw [State.advance_busy (by exact ho)]
    exact viewOf_next.mpr s.resume_clientView
  · rw [State.advance_waits (by exact ho) (by exact hp)]
    rfl
  · simp [State.advance, show s.clientView.opstate = .idle from ho, show s.clientView.port = c :: rest from hp, hc]
  · rw [State.advance_command (by exact ho) (by exact hp) hc]
    exact exec_clientView (s.takeCommand rest) i

/-- An operation broken off leaves reset what the client sees of its two states. -/
theorem brokenOff_clientView (n : Nat) {t u : State} (h : t.clientView = u.clientView) :
    (s.clientView.brokenOff n t).assertReset = (s.brokenOff n u).assertReset := by
  have view (t : State) : (s.clientView.brokenOff n t).assertReset = (s.brokenOff n t.clientView).assertReset := rfl
  rw [view, h]
  rfl

theorem atReset_clientView (r : ResetPoint) : (s.clientView.atReset r).assertReset = (s.atReset r).assertReset := by
  cases r with
  | between => rfl
  | within n =>
    have h : viewOf s.clientView.release.advance = viewOf s.release.advance := advance_clientView s.release
    simp only [State.atReset]
    cases h1 : s.clientView.release.advance <;> cases h2 : s.release.advance <;> simp [h1, h2, viewOf] at h ⊢
    · exact brokenOff_clientView s n h
    · rfl
    · rfl

/-- So is a step, one with a reset asserted too. -/
theorem step_clientView : viewOf (step s.clientView) = viewOf (step s) := by
  cases h : s.resetIn with
  | none =>
    rw [step_released h, step_released (by exact h)]
    exact advance_clientView s
  | some r => rw [step_reset h, step_reset (by exact h), atReset_clientView]

end

/-- Settles O58: both states answer to the client as their common view does. -/
theorem hiddenStateCarriesNothing : Obligations.HiddenStateCarriesNothing := by
  intro s₁ s₂ h
  refine ⟨fun i => ?_, ?_⟩
  · rw [← exec_clientView s₁, h, exec_clientView s₂]
  · rw [← step_clientView s₁, h, step_clientView s₂]

end Sys2Proof.Machine
end

section
/-! PROOFS. The command port of a busy block (O6), what the client reads (O60), and the values reset leaves (O1). -/

namespace Sys2Proof.Machine

open Sys2Proof.Claims

/-- Settles O6: every operation begins at the command port, which refuses in BUSY (R21). -/
theorem busyBlockRefusesCommands : Obligations.BusyBlockRefusesCommands := by
  intro i s h
  cases i <;> simp only [exec, execCsumFold, execPreScan, execHdrParse, execSend, execRecv, execRecvTo, execRecvAck,
    execSendAck, State.accept_busy h]

/-! The client's reads, by OPSTATE (R30, R307). -/

theorem clientReadReg_busy {s : State} (h : s.opstate = .busy) (r : ClientReg) :
    clientReadReg r s = .error .readWhileBusy := by
  simp [clientReadReg, h]

theorem clientReadReg_idle {s : State} (h : s.opstate = .idle) (r : ClientReg) :
    clientReadReg r s = readOrFault r (s.clientReg r) := by
  cases hv : s.clientReg r with
  | none => simp only [clientReadReg, h, hv, readOrFault]
  | some v => simp only [clientReadReg, h, hv, readOrFault]

theorem clientReadDst_busy {s : State} (h : s.opstate = .busy) (i : Nat) :
    clientReadDst i s = .error .readWhileBusy := by
  simp [clientReadDst, h]

theorem clientReadDst_ok {s : State} {i : Nat} {b : Byte} (h : s.opstate = .idle) (hb : s.dst.read i = some b) :
    clientReadDst i s = .ok b := by
  simp [clientReadDst, h, hb]

theorem clientReadDst_noByte {s : State} {i : Nat} (h : s.opstate = .idle) (hb : s.dst.read i = none) :
    clientReadDst i s = .error (.noByte i) := by
  simp [clientReadDst, h, hb]

/-! The encodings are the numbers of the spec's tables (R20, R26, R27, R252). -/

theorem ResultCode.code_toNat (r : ResultCode) : r.code.toNat = resultNumber r := by cases r <;> rfl

theorem RStat.code_toNat (r : RStat) : r.code.toNat = rstatNumber r := by cases r <;> rfl

theorem Expected.code_toNat (x : Expected) : x.code.toNat = expNumber x := by cases x <;> rfl

theorem ErrCode.code_toNat (c : ErrCode) : c.code.toNat = errNumber c := by cases c <;> rfl

/-- Settles O60: a read faults in BUSY, and in IDLE it gives the register's or the space's content, if there is one. -/
theorem clientReadsResultRegisters : Obligations.ClientReadsResultRegisters := by
  intro s
  refine ⟨fun h => ⟨clientReadReg_busy h, clientReadDst_busy h⟩, fun h => ?_⟩
  simp only [clientReadReg_idle h, State.clientReg, ResultCode.code_toNat, RStat.code_toNat, ErrCode.code_toNat,
    Expected.code_toNat]
  exact ⟨trivial, trivial, trivial, trivial, trivial, rfl, rfl, rfl, rfl, by cases s.errwrap <;> rfl,
    fun i => ⟨fun b => clientReadDst_ok h, clientReadDst_noByte h⟩⟩

/-- Settles O1: the registers by evaluation, the client's reads register by register. -/
theorem resetLeavesSpecValues : Obligations.ResetLeavesSpecValues := by
  refine ⟨rfl, rfl, rfl, rfl, rfl, rfl, rfl, rfl, rfl, rfl, rfl, rfl, rfl, rfl, rfl, rfl, fun r hr => ?_, fun r hr => ?_,
    fun i => ⟨Memory.read_nil i, Memory.read_nil i⟩⟩
  · rw [clientReadReg_idle rfl]
    fin_cases hr <;> rfl
  · rw [clientReadReg_idle rfl]
    fin_cases hr <;> rfl

end Sys2Proof.Machine
end

section
/-! PROOFS. Waiting in the blocking ready-read (O38, O36, O37): an operation goes on from a wait as if it had not waited, and
waits for ever where nothing is ready. -/

namespace Sys2Proof.Machine

open Sys2Proof.Claims

/-! The blocking ready-read in the three operations that wait in one (R66). -/

/-- What RECV.ACK and the acknowledgement part of SEND.ACK do with the end of their ready-read (R210, R211). -/
def State.acknowledged (r : ReadyEnd) (s : State) : State :=
  match r with
  | .terr e => s.raise .other (.transportRead e)
  | .window ws => s.scanWindow ws

/-- The operation `p` from its ready-read on: what its command runs after its front, and what a step goes on with (R21). -/
def State.readyReadOf (p : Pending) (s : State) : State :=
  match p with
  | .recv d => s.recvFrom d
  | .recvAck | .sendAck => s.ackFrom p

/-- What the operation `p` does with the end of its ready-read. -/
def State.answered (p : Pending) (r : ReadyEnd) (s : State) : State :=
  match p with
  | .recv d => s.received .other d r
  | .recvAck | .sendAck => s.acknowledged r

section
variable {s : State}

theorem State.ackFrom_answers {ws : List ReadAttempt} {a : ReadAttempt} {r : ReadyEnd} {rest : List ReadAttempt}
    (hr : s.reads = ws ++ a :: rest) (h : ∀ b ∈ ws, b.NotReady) (ha : a.Answers r) (p : Pending) :
    s.ackFrom p = (s.polled (ws ++ [a]) rest).acknowledged r := by
  cases r with
  | terr e => exact State.ackFrom_fails hr h ha p
  | window w => exact State.ackFrom_window hr h ha p

theorem State.acknowledged_concludes (s : State) (r : ReadyEnd) : s.Concludes .other (s.acknowledged r) := by
  cases r with
  | terr e => exact State.raise_concludes (.refl s) (by simp) (by simp) rfl rfl
  | window ws => exact s.scanWindow_concludes ws

theorem State.resume_pending {p : Pending} (h : s.pending = some p) : s.resume = s.readyReadOf p := by
  cases p <;> simp [State.resume, h, State.readyReadOf]

/-- With nothing ready the operation has read what there was, and waits. -/
theorem State.readyReadOf_waits (h : ∀ a ∈ s.reads, a.NotReady) (p : Pending) :
    s.readyReadOf p = (s.polled s.reads []).wait p := by
  cases p with
  | recv d => exact State.recvFrom_waits h d
  | recvAck | sendAck => exact State.ackFrom_waits h _

/-- The first attempt that is ready or fails ends the ready-read, and the operation deals with that end. -/
theorem State.readyReadOf_answers {ws : List ReadAttempt} {a : ReadAttempt} {r : ReadyEnd} {rest : List ReadAttempt}
    (hr : s.reads = ws ++ a :: rest) (h : ∀ b ∈ ws, b.NotReady) (ha : a.Answers r) (p : Pending) :
    s.readyReadOf p = (s.polled (ws ++ [a]) rest).answered p r := by
  cases p with
  | recv d => exact State.recvFrom_answers hr h ha d
  | recvAck | sendAck => exact State.ackFrom_answers hr h ha _

theorem State.answered_concludes (s : State) (p : Pending) (r : ReadyEnd) : s.Concludes .other (s.answered p r) := by
  cases p with
  | recv d => exact s.received_concludes .other d r
  | recvAck | sendAck => exact s.acknowledged_concludes r

/-- An operation is BUSY after its ready-read only where no attempt ended it. -/
theorem State.notReady_of_readyReadOf_busy {p : Pending} (h : (s.readyReadOf p).opstate = .busy) :
    ∀ a ∈ s.reads, a.NotReady := by
  rcases attempts_cases s.reads with hw | ⟨ws, a, r, rest, hr, hw, ha⟩
  · exact hw
  · rw [State.readyReadOf_answers hr hw ha, (State.answered_concludes _ p r).idle.1] at h
    cases h

/-- How an operation ends does not depend on having waited: OPSTATE and what is pending, all that a wait writes, are written
again at the end and not read on the way there. -/
theorem State.answered_wait (s : State) (q p : Pending) (r : ReadyEnd) : (s.wait q).answered p r = s.answered p r := by
  cases p <;> cases r <;> rfl

/-- A ready-read cut in two by a wait leaves what the whole one would have left. -/
theorem State.readyReadOf_later (h : ∀ a ∈ s.reads, a.NotReady) (p : Pending) (more : List ReadAttempt) :
    ({ (s.polled s.reads []).wait p with reads := more } : State).readyReadOf p =
      ({ s with reads := s.reads ++ more } : State).readyReadOf p := by
  rcases attempts_cases more with hw | ⟨ws, a, r, rest, rfl, hw, ha⟩
  · have hall : ∀ a ∈ s.reads ++ more, a.NotReady := fun a ha => (List.mem_append.mp ha).elim (h a) (hw a)
    rw [State.readyReadOf_waits hw, State.readyReadOf_waits hall]
    simp [State.polled, State.wait]
  · have hall : ∀ a ∈ s.reads ++ ws, a.NotReady := fun a ha => (List.mem_append.mp ha).elim (h a) (hw a)
    have hpolled : ({ (s.polled s.reads []).wait p with reads := ws ++ a :: rest } : State).polled (ws ++ [a]) rest =
        (({ s with reads := s.reads ++ (ws ++ a :: rest) } : State).polled (s.reads ++ ws ++ [a]) rest).wait p := by
      simp [State.polled, State.wait]
    rw [State.readyReadOf_answers rfl hw ha, State.readyReadOf_answers (List.append_assoc ..).symm hall ha, hpolled,
      State.answered_wait]

end

/-! Which operation waits. -/

theorem State.scanSequence_idle (s : State) (xs : List Byte) : (s.scanSequence xs).opstate = .idle := by
  simp only [State.scanSequence]
  split <;> rfl

theorem State.parseSequence_idle (s : State) (xs : List Byte) : (s.parseSequence xs).opstate = .idle := by
  simp only [State.parseSequence]
  split <;> rfl

theorem State.recvToFrom_idle (s : State) (d : Nat) (t : Duration) : (s.recvToFrom d t).opstate = .idle := by
  rcases s.recvToFrom_cases d t with ⟨-, -, e⟩ | ⟨ws, a, r, rest, -, -, -, -, e⟩ | ⟨ws, a, rest, -, -, -, -, -, e⟩ <;> rw [e]
  · rfl
  · exact (State.received_concludes _ _ d r).idle.1
  · rfl

/-- Every way the front of SEND and SEND.ACK goes (R131, R138 to R140): the payload is too long, the write fails, or the frame is
sent and `k` goes on. -/
theorem State.sendBody_cases {s t : State} {p : List Byte} {k : State → State} (h : s.sendBody p k = .next t) :
    (254 < p.length ∧ t = (s.presentPin p).raise .other .tooMuchData) ∨
    (p.length ≤ 254 ∧ s.attached = true ∧ ∃ e, s.drawWrite = .terr e ∧
      t = (s.presentPin p).sendFrame.raise .other (.transportWrite e)) ∨
    (p.length ≤ 254 ∧ s.attached = true ∧ s.drawWrite = .ok ∧ t = k (s.presentPin p).sendFrame) := by
  rcases State.sendBody_next.mp h with ⟨hl, rfl⟩ | ⟨hl, ha, rfl⟩
  · exact .inl ⟨hl, rfl⟩
  · cases hd : s.drawWrite with
    | terr e => exact .inr (.inl ⟨hl, ha, e, rfl, State.sendThen_terr (by simpa using hd) k⟩)
    | ok => exact .inr (.inr ⟨hl, ha, rfl, State.sendThen_ok (by simpa using hd) k⟩)

/-- The front leaves the block BUSY only where `k` went on and left it so. -/
theorem State.sendBody_busy {s t : State} {p : List Byte} {k : State → State} (h : s.sendBody p k = .next t)
    (hb : t.opstate = .busy) :
    p.length ≤ 254 ∧ s.attached = true ∧ s.drawWrite = .ok ∧ t = k (s.presentPin p).sendFrame := by
  rcases State.sendBody_cases h with ⟨-, rfl⟩ | ⟨-, -, e, -, rfl⟩ | hk
  · cases hb
  · cases hb
  · exact hk

/-- An operation that waits has gone into its ready-read from a state `u`, and would have done so whatever reads were to come. -/
theorem exec_busy {i : Instr} {s w : State} (h : exec i s = .next w) (hb : w.opstate = .busy) :
    ∃ p u, w = State.readyReadOf p u ∧ u.reads = s.reads ∧ u.resetIn = s.resetIn ∧
      ∀ as, exec i { s with reads := as } = .next (State.readyReadOf p { u with reads := as }) := by
  cases i with
  | csumFold seed xs =>
    obtain ⟨-, rfl⟩ := exec_csumFold_next.mp h
    cases hb
  | preScan xs =>
    obtain ⟨-, rfl⟩ := exec_preScan_next.mp h
    simp [State.scanSequence_idle] at hb
  | hdrParse xs =>
    obtain ⟨-, rfl⟩ := exec_hdrParse_next.mp h
    simp [State.parseSequence_idle] at hb
  | send pin =>
    obtain ⟨-, -, -, rfl⟩ := State.sendBody_busy (exec_send_next.mp h).2 hb
    cases hb
  | recv d =>
    obtain ⟨hi, ha, rfl⟩ := exec_recv_next.mp h
    exact ⟨.recv d, s.begin, rfl, rfl, rfl, fun _ => exec_recv_next.mpr ⟨hi, ha, rfl⟩⟩
  | recvTo d t =>
    obtain ⟨-, -, rfl⟩ := exec_recvTo_next.mp h
    simp [State.recvToFrom_idle] at hb
  | recvAck =>
    obtain ⟨hi, ha, rfl⟩ := exec_recvAck_next.mp h
    exact ⟨.recvAck, s.begin, rfl, rfl, rfl, fun _ => exec_recvAck_next.mpr ⟨hi, ha, rfl⟩⟩
  | sendAck pin =>
    obtain ⟨hi, hs⟩ := exec_sendAck_next.mp h
    obtain ⟨hl, ha, hd, rfl⟩ := State.sendBody_busy hs hb
    refine ⟨.sendAck, (s.begin.presentPin pin).sendFrame, rfl, rfl, rfl, fun as => exec_sendAck_next.mpr ⟨hi, ?_⟩⟩
    exact State.sendBody_next.mpr (.inr ⟨hl, ha, State.sendThen_ok (s := State.presentPin pin { s.begin with reads := as }) hd _⟩)

/-- Settles O38: the operation waits in a ready-read it has begun, and the ready-read cut in two by the wait is the whole one. -/
theorem laterAnswersGiveSameEnd : Obligations.LaterAnswersGiveSameEnd := by
  intro i s w more hr h hb
  obtain ⟨p, u, rfl, hreads, hreset, hall⟩ := exec_busy h hb
  have hn := State.notReady_of_readyReadOf_busy hb
  rw [hall, ← hreads, ← State.readyReadOf_later hn, State.readyReadOf_waits hn]
  rw [step_released (by exact hreset.trans hr), State.advance_busy rfl, State.resume_pending rfl]

/-- Settles O36: with nothing ready, RECV and RECV.ACK wait from the start of their ready-read. -/
theorem receiveWaitsWhileNotReady : Obligations.ReceiveWaitsWhileNotReady := by
  intro dcap s ⟨hi, ha⟩ hn
  have hwait (p : Pending) : s.begin.readyReadOf p = { afterReads s.reads [] s with opstate := .busy, pending := some p } :=
    State.readyReadOf_waits (s := s.begin) hn p
  exact ⟨exec_recv_next.mpr ⟨hi, ha, hwait (.recv dcap)⟩, exec_recvAck_next.mpr ⟨hi, ha, hwait .recvAck⟩⟩

/-- The block waits in the ready-read of `p`, with nothing ready and no reset asserted. -/
structure State.Blocked (p : Pending) (s : State) : Prop where
  released : s.resetIn = none
  busy : s.opstate = .busy
  pending : s.pending = some p
  notReady : ∀ a ∈ s.reads, a.NotReady

/-- A step of a blocked block makes the reads there are and leaves it blocked. -/
theorem State.Blocked.step {p : Pending} {s : State} (h : s.Blocked p) : ∃ t, step s = .next t ∧ t.Blocked p := by
  refine ⟨(s.polled s.reads []).wait p, ?_, ⟨h.released, rfl, rfl, by simp⟩⟩
  rw [step_released h.released, State.advance_busy h.busy, State.resume_pending h.pending, State.readyReadOf_waits h.notReady]

/-- A run begins with a step. -/
theorem core_run_succ {s t : State} (h : step s = .next t) (k : Nat) : Sys2Proof.core.run (k + 1) s = Sys2Proof.core.run k t := by
  have hstep : Sys2Proof.core.step s = .next t := h
  simp only [Host.Core.run, hstep]

/-- A blocked block stays blocked however long it runs. -/
theorem State.Blocked.run {p : Pending} {s : State} (h : s.Blocked p) (k : Nat) :
    ∃ t, Sys2Proof.core.run k s = .next t ∧ t.Blocked p := by
  induction k generalizing s with
  | zero => exact ⟨s, rfl, h⟩
  | succ k ih =>
    obtain ⟨u, hu, hb⟩ := h.step
    obtain ⟨t, ht, hbt⟩ := ih hb
    exact ⟨t, (core_run_succ hu k).trans ht, hbt⟩

/-- Settles O37: whichever operation is pending, being blocked is kept by every step. -/
theorem blockedReadNeverEnds : Obligations.BlockedReadNeverEnds := by
  intro s k hr hb hp hn
  obtain ⟨p, hp⟩ : ∃ p, s.pending = some p := by
    rcases hp with ⟨d, h⟩ | h | h <;> exact ⟨_, h⟩
  obtain ⟨t, ht, hblocked⟩ := State.Blocked.run ⟨hr, hb, hp, hn⟩ k
  exact ⟨t, ht, hblocked.busy, hblocked.pending.trans hp.symm⟩

end Sys2Proof.Machine
end

section
/-! PROOFS. How a ready-read ends: by a failing read (O32), by Timeout (O35), or by a window (O42). -/

namespace Sys2Proof.Machine

open Sys2Proof.Claims

/-- Settles O32: the failing attempt ends the ready-read, and its error is raised on what the bus then shows. -/
theorem readFailureIsRaised : Obligations.ReadFailureIsRaised := by
  intro dcap t waits rest a e s ⟨hi, ha⟩ ⟨hr, hw, hans⟩
  have hfail (p : Pending) : s.begin.readyReadOf p = (s.begin.polled (waits ++ [a]) rest).raise .other (.transportRead e) := by
    rw [State.readyReadOf_answers (s := s.begin) hr hw hans]
    cases p <;> rfl
  refine ⟨exec_recv_next.mpr ⟨hi, ha, hfail (.recv dcap)⟩, exec_recvAck_next.mpr ⟨hi, ha, hfail .recvAck⟩, fun ht => ?_⟩
  exact exec_recvTo_next.mpr ⟨hi, ha, State.recvToFrom_answers (s := s.begin) hr hw hans ht dcap⟩

theorem Err.errcode_eq_timeout {e : Err} : e.errcode = .timeout ↔ e = .timeout := by
  cases e <;> simp [Err.errcode]

/-- No part after the ready-read ends in Timeout. -/
theorem State.Concludes.errcode_ne_timeout {who : Raiser} {s t : State} (h : s.Concludes who t) : t.errcode ≠ .timeout := by
  rcases h.how with ⟨r, u, rfl, -⟩ | ⟨e, u, rfl, -, he, -, -⟩
  · simp
  · rwa [State.raise_errcode, ne_eq, Err.errcode_eq_timeout]

/-- Settles O35: of the ways RECV.TO goes on, the two that end in Timeout are past the deadline. -/
theorem timeoutOnlyAfterDeadline : Obligations.TimeoutOnlyAfterDeadline := by
  intro dcap t s u h _ hu
  obtain ⟨-, -, rfl⟩ := exec_recvTo_next.mp h
  rcases s.begin.recvToFrom_cases dcap t with ⟨hn, ht, e⟩ | ⟨ws, a, r, rest, -, -, -, -, e⟩ |
    ⟨ws, a, rest, hr, hw, ha, -, hl, e⟩ <;> rw [e] at hu ⊢
  · exact ⟨s.reads, by simp, hn, .inr ⟨rfl, ht, rfl⟩⟩
  · exact absurd hu (State.received_concludes _ _ dcap r).errcode_ne_timeout
  · refine ⟨ws ++ [a], by simpa using hr, ?_, .inl ⟨by simp, hl, rfl⟩⟩
    simpa [or_imp, forall_and] using ⟨hw, ha⟩

/-! The window registers after a ready-read (R53). -/

theorem State.checkBody_window (s : State) (who : Raiser) (d : Nat) :
    (s.checkBody who d).win = s.win ∧ (s.checkBody who d).nread = s.nread := by
  rcases s.checkBody_cases who d with ⟨-, e⟩ | ⟨-, -, e⟩ | ⟨-, -, -, e⟩ | ⟨-, -, -, e⟩ <;> simp [e]

theorem State.decodeWindow_window (s : State) (who : Raiser) (d : Nat) (ws : List Byte) :
    (s.decodeWindow who d ws).win = Memory.ofBytes ws ∧ (s.decodeWindow who d ws).nread = ws.length := by
  rcases h : runParser .full s.lreg ws with ⟨_ | e | _, ⟨p, l⟩, n⟩
  · rw [State.decodeWindow_complete h]
    exact State.checkBody_window (s.parsed ws p l n) who d
  · rw [State.decodeWindow_failed h]
    exact ⟨rfl, rfl⟩
  · rw [State.decodeWindow_ended h]
    exact ⟨rfl, rfl⟩

theorem State.scanWindow_window (s : State) (ws : List Byte) :
    (s.scanWindow ws).win = Memory.ofBytes ws ∧ (s.scanWindow ws).nread = ws.length := by
  rcases s.scanWindow_cases ws with ⟨-, e⟩ | ⟨k, -, e⟩ <;> simp [e, State.parsed]

theorem State.answered_window (s : State) (p : Pending) (ws : List Byte) :
    (s.answered p (.window ws)).win = Memory.ofBytes ws ∧ (s.answered p (.window ws)).nread = ws.length := by
  cases p with
  | recv d => exact s.decodeWindow_window .other d ws
  | recvAck | sendAck => exact s.scanWindow_window ws

/-- A ready chunk has a first byte, and it is odd (R65). -/
theorem ready_head {ws : List Byte} (h : ready ws = true) : ∃ b, ws[0]? = some b ∧ b.getLsbD 0 = true := by
  cases ws with
  | nil => cases h
  | cons b bs => exact ⟨b, rfl, h⟩

/-- Settles O42: either operation writes the window as it came, and only a ready chunk ends the ready-read. -/
theorem windowHoldsTheReadyChunk : Obligations.WindowHoldsTheReadyChunk := by
  intro i dcap waits rest a ws s hi ⟨hidle, hatt⟩ ⟨hr, hw, hans⟩
  obtain ⟨p, hp⟩ : ∃ p, exec i s = .next (s.begin.readyReadOf p) := by
    rcases hi with rfl | rfl
    · exact ⟨.recv dcap, exec_recv_next.mpr ⟨hidle, hatt, rfl⟩⟩
    · exact ⟨.recvAck, exec_recvAck_next.mpr ⟨hidle, hatt, rfl⟩⟩
  obtain ⟨hready, hlen⟩ := hans.window_ready
  obtain ⟨b, hb, hodd⟩ := ready_head hready
  rw [State.readyReadOf_answers (s := s.begin) hr hw hans] at hp
  obtain ⟨hwin, hnread⟩ := (s.begin.polled (waits ++ [a]) rest).answered_window p ws
  have hpos : 1 ≤ ws.length := (List.getElem?_eq_some_iff.mp hb).1
  refine ⟨_, b, hp, fun j => ?_, hnread, ?_, ?_, ?_, hodd, ?_⟩
  · rw [hwin, Memory.read_ofBytes]
  · rwa [hnread]
  · rwa [hnread]
  · rw [hwin, Memory.read_ofBytes, hb]
  · rintro rfl
    simp at hodd

end Sys2Proof.Machine
end

section
/-! PROOFS. What every operation does on the bus, in order (O50): each part's bus events, and the frame SEND writes. -/

namespace Sys2Proof.Machine

open Sys2Proof.Claims

/-! The frame on the bus, by the source's formulas (R90 to R94). -/

theorem frame_eq_frameOf {p : List Byte} (h : p.length ≤ 254) : frame p = frameOf p := by
  have hlcs : neg8 (lengthByte p) = BitVec.ofNat 8 ((256 - (p.length + 1)) % 256) := by
    apply BitVec.eq_of_toNat_eq
    simp only [neg8_toNat, lengthByte, BitVec.toNat_ofNat]
    omega
  have hdcs : neg8 (sum8 Config.tfiH2D p) = BitVec.ofNat 8 ((256 - (0xD4 + total p) % 256) % 256) := by
    apply BitVec.eq_of_toNat_eq
    simp [neg8_toNat, sum8_toNat, Config.tfiH2D, total]
  rw [frame, hlcs, hdcs]
  rfl

/-! What each part of an operation does on the bus. -/

theorem State.scanSequence_bus (s : State) (xs : List Byte) :
    (s.scanSequence xs).trace = s.trace ∧ (s.scanSequence xs).reads = s.reads := by
  simp only [State.scanSequence]
  split <;> exact ⟨rfl, rfl⟩

theorem State.parseSequence_bus (s : State) (xs : List Byte) :
    (s.parseSequence xs).trace = s.trace ∧ (s.parseSequence xs).reads = s.reads := by
  simp only [State.parseSequence]
  split <;> exact ⟨rfl, rfl⟩

/-- The bus between two states carried reads alone, made of the drawn attempts. -/
def State.OnlyReads (s t : State) : Prop :=
  ∃ made, s.reads = made ++ t.reads ∧ t.trace = s.trace ++ made.map BusEvent.read

theorem State.readyReadOf_onlyReads (s : State) (p : Pending) : s.OnlyReads (s.readyReadOf p) := by
  rcases attempts_cases s.reads with hw | ⟨ws, a, r, rest, hr, hw, ha⟩
  · rw [State.readyReadOf_waits hw]
    exact ⟨s.reads, by simp, rfl⟩
  · rw [State.readyReadOf_answers hr hw ha]
    have hk := (State.answered_concludes (s.polled (ws ++ [a]) rest) p r).keeps
    exact ⟨ws ++ [a], by simp [hk.reads, hr], hk.trace⟩

/-- Past the drawn attempts RECV.TO makes only the reads of a Timeout (R70). -/
theorem State.recvToFrom_bus (s : State) (d : Nat) (t : Duration) :
    ∃ made more, s.reads = made ++ (s.recvToFrom d t).reads ∧
      (s.recvToFrom d t).trace = s.trace ++ made.map BusEvent.read ++ more ∧
      (more = [] ∨ (more = [.unready t] ∧ (s.recvToFrom d t).reads = [] ∧ (s.recvToFrom d t).errcode = .timeout)) := by
  rcases s.recvToFrom_cases d t with ⟨-, -, e⟩ | ⟨ws, a, r, rest, hr, -, -, -, e⟩ | ⟨ws, a, rest, hr, -, -, -, -, e⟩ <;> rw [e]
  · exact ⟨s.reads, [.unready t], by simp, rfl, .inr ⟨rfl, rfl, rfl⟩⟩
  · have hk := (State.received_concludes (s.polled (ws ++ [a]) rest) .recvTo d r).keeps
    exact ⟨ws ++ [a], [], by simp [hk.reads, hr], by simp [hk.trace], .inl rfl⟩
  · exact ⟨ws ++ [a], [], by simp [hr], by simp, .inl rfl⟩

theorem State.sendFrame_trace (s : State) :
    s.sendFrame.trace = s.trace ++ [.write (frame s.pin.contents) s.drawWrite] := by
  have hf : s.buildFrame.fbuf.contents = frame s.pin.contents := Memory.contents_ofBytes _
  rw [State.sendFrame, hf]
  rfl

/-- SEND's front: too long a payload touches no bus (R131); any other is written once, in one frame, and `k` goes on from that
write only where the transport accepted it (R138 to R140). -/
theorem State.sendBody_bus {s t : State} {p : List Byte} {k : State → State} (h : s.sendBody p k = .next t) :
    ∃ u : State, u.reads = s.reads ∧
      u.trace = s.trace ++ (if p.length ≤ 254 then [.write (frameOf p) s.drawWrite] else []) ∧
      ((t.reads = u.reads ∧ t.trace = u.trace) ∨ (p.length ≤ 254 ∧ s.drawWrite = .ok ∧ t = k u)) := by
  have hsent (hl : p.length ≤ 254) : (s.presentPin p).sendFrame.trace =
      s.trace ++ (if p.length ≤ 254 then [.write (frameOf p) s.drawWrite] else []) := by
    simp [State.sendFrame_trace, hl, frame_eq_frameOf hl]
  rcases State.sendBody_cases h with ⟨hl, rfl⟩ | ⟨hl, -, e, -, rfl⟩ | ⟨hl, -, hd, rfl⟩
  · exact ⟨s, rfl, by simp [Nat.not_le.mpr hl], .inl ⟨rfl, rfl⟩⟩
  · exact ⟨(s.presentPin p).sendFrame, rfl, hsent hl, .inl ⟨rfl, rfl⟩⟩
  · exact ⟨(s.presentPin p).sendFrame, rfl, hsent hl, .inr ⟨hl, hd, rfl⟩⟩

/-- Settles O50: each operation's bus events are those of its parts, in order. -/
theorem busTraceOfEachOperation : Obligations.BusTraceOfEachOperation := by
  intro i s t h
  cases i with
  | csumFold seed xs =>
    obtain ⟨-, rfl⟩ := exec_csumFold_next.mp h
    exact ⟨rfl, rfl⟩
  | preScan xs =>
    obtain ⟨-, rfl⟩ := exec_preScan_next.mp h
    exact s.begin.scanSequence_bus xs
  | hdrParse xs =>
    obtain ⟨-, rfl⟩ := exec_hdrParse_next.mp h
    exact s.begin.parseSequence_bus xs
  | send p =>
    obtain ⟨u, hr, ht, ⟨hr', ht'⟩ | ⟨-, -, rfl⟩⟩ := State.sendBody_bus (exec_send_next.mp h).2
    · exact ⟨hr'.trans hr, ht'.trans ht⟩
    · exact ⟨hr, ht⟩
  | recv d =>
    obtain ⟨-, -, rfl⟩ := exec_recv_next.mp h
    exact s.begin.readyReadOf_onlyReads (.recv d)
  | recvTo d w =>
    obtain ⟨-, -, rfl⟩ := exec_recvTo_next.mp h
    exact s.begin.recvToFrom_bus d w
  | recvAck =>
    obtain ⟨-, -, rfl⟩ := exec_recvAck_next.mp h
    exact s.begin.readyReadOf_onlyReads .recvAck
  | sendAck p =>
    obtain ⟨u, hr, ht, ⟨hr', ht'⟩ | ⟨hl, hd, rfl⟩⟩ := State.sendBody_bus (exec_sendAck_next.mp h).2
    · exact ⟨[], by simp [hr', hr], by simp [ht', ht], fun _ => rfl⟩
    · obtain ⟨made, hm, htr⟩ := u.readyReadOf_onlyReads .sendAck
      refine ⟨made, hr ▸ hm, htr.trans (by rw [ht]; rfl), fun hc => ?_⟩
      rcases hc with hc | hc
      · omega
      · exact absurd hd hc

end Sys2Proof.Machine
end

section
/-! PROOFS. The command encoding (O4, O3; R110 to R113): the decoder accepts the well-formed commands, and each of them is
what the encoder writes for its operation. -/

namespace Sys2Proof

open Sys2Proof.Laws

/-! What the decoder accepts. -/

theorem Command.wellFormed_iff {c : Command} :
    c.wellFormed = true ↔ c.high = 0 ∧ ∃ l, linesOf c.op = some l ∧ c.idleOutside l = true := by
  cases hl : linesOf c.op <;> simp [Command.wellFormed, hl]

/-- The decoder accepts the well-formed commands, and reads each by its row of the table. -/
theorem decode_ok_iff {c : Command} {i : Instr} :
    decode c = .ok i ↔ c.wellFormed = true ∧ decodeOp c.op c = some i := by
  rw [Command.wellFormed_iff, decode]
  by_cases hh : c.high = 0#4
  · cases hl : linesOf c.op with
    | none => simp [hh]
    | some l =>
      cases hj : decodeOp c.op c with
      | none => simp [hh]
      | some j => by_cases hidle : c.idleOutside l = true <;> simp [hh, hidle]
  · simp [hh]

/-! Decoding what was encoded. -/

theorem encode_wellFormed (i : Instr) : (encode i).wellFormed = true :=
  match i with
  | .csumFold seed xs => PortForm.csumFold seed xs
  | .preScan xs => PortForm.preScan xs
  | .hdrParse xs => PortForm.hdrParse xs
  | .send pin => PortForm.send pin
  | .recv dcap => PortForm.recv dcap
  | .recvTo dcap t => PortForm.recvTo dcap t
  | .recvAck => PortForm.recvAck
  | .sendAck pin => PortForm.sendAck pin

theorem decodeOp_encode (i : Instr) : decodeOp (encode i).op (encode i) = some i := by cases i <;> rfl

theorem decode_encode (i : Instr) : decode (encode i) = .ok i :=
  decode_ok_iff.mpr ⟨encode_wellFormed i, decodeOp_encode i⟩

/-! Encoding what was decoded. -/

/-- With a zero high nibble the command byte is the operation code. -/
theorem Command.cmd_of_high_eq_zero {c : Command} (h : c.high = 0) : c.cmd = c.op.setWidth 8 := by
  have hall : ∀ b : Byte, b.extractLsb' 4 4 = 0 → b = (b.extractLsb' 0 4).setWidth 8 := by decide
  exact hall c.cmd h

/-- The codes the table assigns (R111, R112). -/
theorem linesOf_some_cases {op : BitVec 4} {l : Lines} (h : linesOf op = some l) :
    op = 0 ∨ op = 1 ∨ op = 2 ∨ op = 3 ∨ op = 4 ∨ op = 5 ∨ op = 6 ∨ op = 7 := by
  have hall : ∀ op : BitVec 4, (linesOf op).isSome = true →
      op = 0 ∨ op = 1 ∨ op = 2 ∨ op = 3 ∨ op = 4 ∨ op = 5 ∨ op = 6 ∨ op = 7 := by decide
  exact hall op (by simp [h])

theorem Command.idleOutside_iff {c : Command} {l : Lines} : c.idleOutside l = true ↔
    (l.seed = false → c.seed = 0) ∧ (l.bytes = false → c.bytes = []) ∧ (l.dcap = false → c.dcap = 0) ∧
      (l.dur = false → c.dur = { num := 0 }) := by
  simp [Command.idleOutside, and_assoc, or_iff_not_imp_left]

/-- Row by row of the table, encoding what was read off the lines writes the same lines and the operation code (R111). -/
theorem encode_of_decodeOp {c : Command} {op : BitVec 4} {l : Lines} {i : Instr} (hl : linesOf op = some l)
    (hi : decodeOp op c = some i) (hidle : c.idleOutside l = true) : encode i = { c with cmd := op.setWidth 8 } := by
  obtain ⟨cmd, seed, bytes, dcap, dur⟩ := c
  obtain ⟨hseed, hbytes, hdcap, hdur⟩ := Command.idleOutside_iff.mp hidle
  rcases linesOf_some_cases hl with rfl | rfl | rfl | rfl | rfl | rfl | rfl | rfl <;>
  · cases hl
    cases hi
    simp_all [encode]

/-- Settles O4: the decoder accepts the well-formed commands only, and its row of the table gives back the whole command. -/
theorem decodeIsInverseOfEncode : Obligations.DecodeIsInverseOfEncode := by
  refine fun c i => ⟨fun h => ?_, fun h => h ▸ decode_encode i⟩
  obtain ⟨hw, hi⟩ := decode_ok_iff.mp h
  obtain ⟨hhigh, l, hl, hidle⟩ := Command.wellFormed_iff.mp hw
  rw [encode_of_decodeOp hl hi hidle, ← Command.cmd_of_high_eq_zero hhigh]

/-- Settles O3: each command is the encoding of its operation. -/
theorem writtenCommandsDecode : Obligations.WrittenCommandsDecode :=
  ⟨decode_encode (.csumFold 0xD4#8 [0x14#8]), decode_encode (.preScan [0x01#8]), decode_encode (.hdrParse [0x00#8, 0xFF#8]),
    decode_encode (.send [0x2A#8]), decode_encode (.recv 32), decode_encode (.recvTo 32 { num := 500 }),
    decode_encode .recvAck, decode_encode (.sendAck [0x14#8])⟩

theorem encode_cmd_lt (i : Instr) : (encode i).cmd.toNat < 8 := by cases i <;> simp [encode]

/-- R112's commands spell no operation, whatever their operands: none of them is an encoding. -/
theorem decode_reserved {c : Command} (h : 16 ≤ c.cmd.toNat ∨ 8 ≤ c.cmd.toNat % 16) : ∃ r, decode c = .error r := by
  cases hd : decode c with
  | error r => exact ⟨r, rfl⟩
  | ok i =>
    have hlt : c.cmd.toNat < 8 := (decodeIsInverseOfEncode c i).mp hd ▸ encode_cmd_lt i
    omega

end Sys2Proof
end

section
/-! PROOFS. The command port of an idle block (O5, O7): a step refuses what the decoder rejects and runs what it reads. -/

namespace Sys2Proof.Machine

theorem State.advance_reserved {s : State} {c : Command} {rest : List Command} {r : DecodeReject} (h : s.opstate = .idle)
    (hp : s.port = c :: rest) (hd : decode c = .error r) : s.advance = .refused (.reservedCommand r) := by
  simp [State.advance, h, hp, hd]

/-- Settles O5: no operation's command byte is 8 or above, so the decoder refuses the command, and the step with it. -/
theorem reservedCommandsAreRefused : Obligations.ReservedCommandsAreRefused := by
  intro s c rest hr hi hp hc
  obtain ⟨r, hd⟩ := decode_reserved hc
  exact ⟨r, (step_released hr).trans (State.advance_reserved hi hp hd)⟩

/-- Settles O7: a step without reset is the plain one, which hands the command's operation to `exec`. -/
theorem stepRunsDecodedCommand : Obligations.StepRunsDecodedCommand := by
  intro s c rest i hr hi hp hd
  exact (step_released hr).trans (State.advance_command hi hp hd)

end Sys2Proof.Machine
end

section
/-! PROOFS. A host-to-device frame is never received (O43): behind a status byte it fails the parser at its TFI. -/

namespace Sys2Proof.Machine

open Sys2Proof.Claims

/-- The status byte does not matter: no 00 FF pair can end at the frame's own 0x00. -/
theorem runParser_status_hostFrame {fr : List Byte} (h : HostFrame fr) (l status : Byte) :
    ∃ len, runParser .full l ((status :: fr).take 32) = ⟨.failed (.invalidByte 0xD4#8 .tfiD2H), ⟨.tfi, len⟩, 6⟩ := by
  obtain ⟨len, lcs, d, p, rfl, -, hlcs, -⟩ := h
  have hno : NoPair [status, 0x00#8] := by
    rintro (_ | _ | j) <;> simp [PairAt]
  have hpair : FirstPair ([status] ++ 0x00#8 :: 0xFF#8 :: len :: lcs :: 0xD4#8 :: (p ++ [d]).take 26) 2 :=
    firstPair_append hno
  exact ⟨len, (runParser_firstPair .full l hpair).trans (afterPair_badTfi l len lcs _ 3 _ hlcs (by decide))⟩

/-- Decoding such a window raises the parser's error and leaves DST. -/
theorem State.decodeWindow_hostFrame {fr : List Byte} (h : HostFrame fr) (s : State) (who : Raiser) (d : Nat) (status : Byte) :
    ∃ u : State, s.decodeWindow who d ((status :: fr).take 32) = u.raise who (.invalidByte 0xD4#8 .tfiD2H) ∧
      u.dst = s.dst := by
  obtain ⟨len, hrun⟩ := runParser_status_hostFrame h s.lreg status
  exact ⟨_, State.decodeWindow_failed hrun who d, rfl⟩

/-- Settles O43: SEND writes a host frame, and every receive fails on one. -/
theorem hostFrameIsNeverReceived : Obligations.HostFrameIsNeverReceived := by
  intro dcap took p b waits rest s ⟨hi, ha⟩ hl hb hr hw
  have hframe : HostFrame (frameOf p) := frame_eq_frameOf hl ▸ frame_hostFrame hl
  have hrecv := State.recvFrom_answers (s := s.begin) hr hw (.ready _ took hb) dcap
  obtain ⟨u, hfail, hdst⟩ := State.decodeWindow_hostFrame hframe (s.begin.polled _ rest) .other dcap b
  exact ⟨_, exec_recv_next.mpr ⟨hi, ha, hrecv.trans hfail⟩, rfl, rfl, rfl, rfl, rfl, fun j => congrArg (Memory.read · j) hdst⟩

end Sys2Proof.Machine
end

section
/-! PROOFS. What SEND writes (O21, O22, O23): the frame by the source's formulas, built and written once by the front that SEND
and SEND.ACK share. -/

namespace Sys2Proof.Machine

open Sys2Proof.Claims

/-- The fold in ACC is the source's sum (R232). -/
theorem sum8_tfiH2D_eq_ofNat (p : List Byte) : sum8 Config.tfiH2D p = BitVec.ofNat 8 (0xD4 + total p) := by
  apply BitVec.eq_of_toNat_eq
  rw [sum8_toNat, BitVec.toNat_ofNat]
  rfl

/-- Sending the client's payload is framing it and writing the frame (R132 to R138). -/
theorem State.sendFrame_presentPin {p : List Byte} (h : p.length ≤ 254) (s : State) :
    (s.presentPin p).sendFrame = afterWrite p s.drawWrite (framed p s) := by
  have hpin : (s.presentPin p).pin.contents = p := Memory.contents_ofBytes p
  have hbuild : (s.presentPin p).buildFrame = framed p s := by
    rw [State.buildFrame, hpin, frame_eq_frameOf h, sum8_tfiH2D_eq_ofNat]
    rfl
  have hfbuf : (framed p s).fbuf.contents = frameOf p := Memory.contents_ofBytes _
  rw [State.sendFrame, hbuild, hfbuf]
  rfl

/-! The front of SEND and SEND.ACK, whatever follows it. -/

theorem State.sendBody_tooLong {p : List Byte} {s : State} (h : 254 < p.length) (k : State → State) :
    s.sendBody p k = .next ((s.presentPin p).raise .other .tooMuchData) :=
  State.sendBody_next.mpr (.inl ⟨h, rfl⟩)

theorem State.sendBody_accepted {p : List Byte} {s : State} (hl : p.length ≤ 254) (ha : s.attached = true)
    (hd : s.drawWrite = .ok) (k : State → State) : s.sendBody p k = .next (k (afterWrite p .ok (framed p s))) := by
  refine State.sendBody_next.mpr (.inr ⟨hl, ha, ?_⟩)
  rw [State.sendThen_ok (by exact hd), State.sendFrame_presentPin hl, hd]

theorem State.sendBody_writeFails {p : List Byte} {s : State} {e : TErr} (hl : p.length ≤ 254) (ha : s.attached = true)
    (hd : s.drawWrite = .terr e) (k : State → State) :
    s.sendBody p k = .next ((afterWrite p (.terr e) (framed p s)).raise .other (.transportWrite e)) := by
  refine State.sendBody_next.mpr (.inr ⟨hl, ha, ?_⟩)
  rw [State.sendThen_terr (by exact hd), State.sendFrame_presentPin hl, hd]

/-- Settles O21: the front frames the payload and writes it, and SEND ends with success. -/
theorem sendWritesOneFrame : Obligations.SendWritesOneFrame := by
  intro p s ⟨hi, ha⟩ hl hd
  exact exec_send_next.mpr ⟨hi, State.sendBody_accepted (s := s.begin) hl ha hd _⟩

/-- Settles O22: the length check raises before the frame is built. -/
theorem sendRejectsLongPayload : Obligations.SendRejectsLongPayload := by
  intro p s hi hl
  exact ⟨exec_send_next.mpr ⟨hi, State.sendBody_tooLong hl _⟩, exec_sendAck_next.mpr ⟨hi, State.sendBody_tooLong hl _⟩⟩

/-- Settles O23: the failed write is raised, and nothing that follows the front runs. -/
theorem sendRaisesWriteFailure : Obligations.SendRaisesWriteFailure := by
  intro p e s ⟨hi, ha⟩ hl hd
  have hfails := State.sendBody_writeFails (s := s.begin) hl ha hd
  exact ⟨exec_send_next.mpr ⟨hi, hfails _⟩, exec_sendAck_next.mpr ⟨hi, hfails _⟩⟩

end Sys2Proof.Machine
end

section
/-! PROOFS. What SEND and SEND.ACK leave (O24, O25): the frame in FBUF, read byte by byte, and what neither of them writes. -/

namespace Sys2Proof.Machine

open Sys2Proof.Claims

/-! The frame, byte by byte (R132 to R137). -/

theorem frameOf_length (p : List Byte) : (frameOf p).length = p.length + 6 := by simp [frameOf]

theorem frameOf_header (p : List Byte) :
    (frameOf p)[0]? = some 0x00#8 ∧ (frameOf p)[1]? = some 0xFF#8 ∧
      (frameOf p)[2]? = some (BitVec.ofNat 8 (p.length + 1)) ∧
      (frameOf p)[3]? = some (BitVec.ofNat 8 ((256 - (p.length + 1)) % 256)) ∧ (frameOf p)[4]? = some 0xD4#8 :=
  ⟨rfl, rfl, rfl, rfl, rfl⟩

/-- Behind the five header bytes stand the payload and the DCS. -/
theorem frameOf_after_header (p : List Byte) (j : Nat) :
    (frameOf p)[5 + j]? = (p ++ [BitVec.ofNat 8 ((256 - (0xD4 + total p) % 256) % 256)])[j]? := by
  rw [frameOf, List.append_assoc, List.getElem?_append_right (Nat.le_add_right 5 j)]
  exact congrArg _ (Nat.add_sub_cancel_left 5 j)

theorem frameOf_payload {p : List Byte} {j : Nat} (h : j < p.length) : (frameOf p)[5 + j]? = p[j]? := by
  rw [frameOf_after_header, List.getElem?_append_left h]

theorem frameOf_dcs (p : List Byte) :
    (frameOf p)[5 + p.length]? = some (BitVec.ofNat 8 ((256 - (0xD4 + total p) % 256) % 256)) := by
  rw [frameOf_after_header, List.getElem?_concat_length]

theorem frameOf_end {p : List Byte} {j : Nat} (h : p.length + 6 ≤ j) : (frameOf p)[j]? = none :=
  List.getElem?_eq_none ((frameOf_length p).trans_le h)

/-! What the acknowledgement part leaves (R211, R214). -/

theorem State.acknowledged_leaves (s : State) (r : ReadyEnd) :
    (s.acknowledged r).dst = s.dst ∧ (s.acknowledged r).rcount = s.rcount ∧ (s.acknowledged r).acc = s.acc ∧
      (s.acknowledged r).lreg = s.lreg := by
  cases r with
  | terr e => exact ⟨rfl, rfl, rfl, rfl⟩
  | window ws => exact s.scanWindow_leaves ws

/-- RECV.ACK's part makes its reads, and beside them changes only the window, PST and the record, whether it ends or waits. -/
theorem State.ackFrom_leaves (s : State) (p : Pending) :
    (∃ made left, (s.polled made left).Keeps (s.ackFrom p)) ∧
      (s.ackFrom p).dst = s.dst ∧ (s.ackFrom p).rcount = s.rcount ∧ (s.ackFrom p).acc = s.acc ∧
      (s.ackFrom p).lreg = s.lreg := by
  rcases attempts_cases s.reads with hw | ⟨ws, a, r, rest, hr, hw, ha⟩
  · rw [State.ackFrom_waits hw]
    exact ⟨⟨s.reads, [], by constructor <;> rfl⟩, rfl, rfl, rfl, rfl⟩
  · rw [State.ackFrom_answers hr hw ha]
    exact ⟨⟨ws ++ [a], rest, (State.acknowledged_concludes _ r).keeps⟩, State.acknowledged_leaves _ r⟩

theorem State.ackFrom_fbuf (s : State) (p : Pending) : (s.ackFrom p).fbuf = s.fbuf := by
  obtain ⟨⟨made, left, hk⟩, -⟩ := s.ackFrom_leaves p
  exact hk.fbuf

/-! FBUF. -/

/-- After a payload that is not too long FBUF holds its frame, whether the write was accepted or not (R132 to R140). -/
theorem State.sendBody_fbuf {s t : State} {p : List Byte} {k : State → State} (h : s.sendBody p k = .next t)
    (hl : p.length ≤ 254) (hk : ∀ u : State, (k u).fbuf = u.fbuf) : t.fbuf = Memory.ofBytes (frameOf p) := by
  have hsent : (s.presentPin p).sendFrame.fbuf = Memory.ofBytes (frameOf p) := by
    rw [State.sendFrame_presentPin hl]
    rfl
  rcases State.sendBody_cases h with ⟨hlong, -⟩ | ⟨-, -, e, -, rfl⟩ | ⟨-, -, -, rfl⟩
  · omega
  · exact hsent
  · exact (hk _).trans hsent

/-- Settles O24: FBUF holds the frame, which the acknowledgement leaves, and its bytes are those of the formulas. -/
theorem frameBytesInFbuf : Obligations.FrameBytesInFbuf := by
  intro p i s t hi hl h
  have hfbuf : t.fbuf = Memory.ofBytes (frameOf p) := by
    rcases hi with rfl | rfl
    · exact State.sendBody_fbuf (exec_send_next.mp h).2 hl fun _ => rfl
    · exact State.sendBody_fbuf (exec_sendAck_next.mp h).2 hl fun u => u.ackFrom_fbuf .sendAck
  obtain ⟨h0, h1, h2, h3, h4⟩ := frameOf_header p
  simp only [hfbuf, Memory.read_ofBytes]
  refine ⟨_, _, _, h0, h1, h2, h3, h4, fun j => frameOf_payload, frameOf_dcs p, fun j => frameOf_end, ?_⟩
  simp only [BitVec.toNat_ofNat]
  omega

/-! The frame of SEND and SEND.ACK. -/

/-- What neither SEND nor SEND.ACK writes: the client's destination, the registers of the other operations, LREG and the ports. -/
structure State.SendAckKeeps (s t : State) : Prop where
  dst : t.dst = s.dst
  rcount : t.rcount = s.rcount
  rbyte : t.rbyte = s.rbyte
  rpos : t.rpos = s.rpos
  lreg : t.lreg = s.lreg
  attached : t.attached = s.attached
  port : t.port = s.port
  resetIn : t.resetIn = s.resetIn

/-- SEND leaves the window, PST and the reads to come as well. -/
structure State.SendKeeps (s t : State) : Prop extends State.SendAckKeeps s t where
  win : t.win = s.win
  nread : t.nread = s.nread
  idx : t.idx = s.idx
  pst : t.pst = s.pst
  reads : t.reads = s.reads

theorem State.SendAckKeeps.trans {s t u : State} (h : s.SendAckKeeps t) (h' : t.SendAckKeeps u) : s.SendAckKeeps u :=
  ⟨h'.dst.trans h.dst, h'.rcount.trans h.rcount, h'.rbyte.trans h.rbyte, h'.rpos.trans h.rpos, h'.lreg.trans h.lreg,
    h'.attached.trans h.attached, h'.port.trans h.port, h'.resetIn.trans h.resetIn⟩

theorem State.ackFrom_keeps (s : State) (p : Pending) : s.SendAckKeeps (s.ackFrom p) := by
  obtain ⟨⟨made, left, hk⟩, hdst, hrcount, -, hlreg⟩ := s.ackFrom_leaves p
  exact ⟨hdst, hrcount, hk.rbyte, hk.rpos, hlreg, hk.attached, hk.port, hk.resetIn⟩

/-- A command's front keeps what SEND keeps: the operation ends in it, or `k` goes on from there. -/
theorem State.sendBody_keeps {s t : State} {p : List Byte} {k : State → State} (h : s.begin.sendBody p k = .next t) :
    s.SendKeeps t ∨ ∃ u, s.SendKeeps u ∧ t = k u := by
  rcases State.sendBody_cases h with ⟨-, rfl⟩ | ⟨-, -, e, -, rfl⟩ | ⟨-, -, -, rfl⟩
  · exact .inl ⟨⟨rfl, rfl, rfl, rfl, rfl, rfl, rfl, rfl⟩, rfl, rfl, rfl, rfl, rfl⟩
  · exact .inl ⟨⟨rfl, rfl, rfl, rfl, rfl, rfl, rfl, rfl⟩, rfl, rfl, rfl, rfl, rfl⟩
  · exact .inr ⟨(s.begin.presentPin p).sendFrame,
      ⟨⟨rfl, rfl, rfl, rfl, rfl, rfl, rfl, rfl⟩, rfl, rfl, rfl, rfl, rfl⟩, rfl⟩

theorem exec_send_keeps {p : List Byte} {s t : State} (h : exec (.send p) s = .next t) : s.SendKeeps t := by
  rcases State.sendBody_keeps (exec_send_next.mp h).2 with hk | ⟨u, hk, rfl⟩
  · exact hk
  · exact ⟨⟨hk.dst, hk.rcount, hk.rbyte, hk.rpos, hk.lreg, hk.attached, hk.port, hk.resetIn⟩,
      hk.win, hk.nread, hk.idx, hk.pst, hk.reads⟩

theorem exec_sendAck_keeps {p : List Byte} {s t : State} (h : exec (.sendAck p) s = .next t) : s.SendAckKeeps t := by
  rcases State.sendBody_keeps (exec_sendAck_next.mp h).2 with hk | ⟨u, hk, rfl⟩
  · exact hk.toSendAckKeeps
  · exact hk.toSendAckKeeps.trans (u.ackFrom_keeps .sendAck)

/-- Settles O25: the front writes none of it, and the acknowledgement only the window, PST and the reads. -/
theorem sendLeavesTheRest : Obligations.SendLeavesTheRest := by
  intro p s t
  refine ⟨fun h => ?_, fun h => ?_⟩
  · have hk : s.SendAckKeeps t := h.elim (fun h => (exec_send_keeps h).toSendAckKeeps) exec_sendAck_keeps
    exact ⟨fun j => congrArg (Memory.read · j) hk.dst, hk.rcount, hk.rbyte, hk.rpos, hk.lreg, hk.attached, hk.port, hk.resetIn⟩
  · have hk := exec_send_keeps h
    exact ⟨fun j => congrArg (Memory.read · j) hk.win, hk.nread, hk.idx, hk.pst, hk.reads⟩

end Sys2Proof.Machine
end

section
/-! PROOFS. The parser's transition table (O13, O14) and its two primitives: PRE.SCAN (O15, O16) and HDR.PARSE (O17, O18, O19),
each by how its run of the parser ends. -/

namespace Sys2Proof.Machine

open Sys2Proof.Claims

/-- LEN and LCS cancel as bytes exactly when their numbers sum to a multiple of 256 (R8, R157). -/
theorem add_eq_zero_iff_toNat_mod (a b : Byte) : a + b = 0#8 ↔ (a.toNat + b.toNat) % 256 = 0 := by
  rw [← BitVec.toNat_inj, BitVec.toNat_add]
  rfl

/-- Settles O13, row by row: PST and the byte choose the branch of `parserStep`. -/
theorem parserFollowsTransitionTable : Obligations.ParserFollowsTransitionTable := by
  intro m l b
  refine ⟨fun hb => ?start00, fun hb => ?startOther, fun hb => ?zeroFF, fun h00 hFF => ?zeroOther, rfl,
    fun hsum => ?lcsGood, fun hsum => ?lcsBad, fun hb => ?tfiGood, fun hb => ?tfiBad⟩
  case start00 => exact if_pos hb
  case startOther => exact if_neg hb
  case zeroFF => exact ⟨if_pos hb, if_pos hb⟩
  case zeroOther => exact (if_neg hFF).trans (if_neg h00)
  case lcsGood => exact if_pos ((add_eq_zero_iff_toNat_mod l b).mpr hsum)
  case lcsBad => exact if_neg (mt (add_eq_zero_iff_toNat_mod l b).mp hsum)
  case tfiGood => exact if_pos hb
  case tfiBad => exact if_neg hb

/-- Settles O14: under the reading D5, a 0x00 in ZERO goes where a 0x00 in START goes. -/
theorem zeroRunStaysInZero : Obligations.ZeroRunStaysInZero :=
  fun _ _ => ⟨rfl, rfl⟩

/-! The two primitives, by what the parser run is. -/

section
variable {xs : List Byte} {s : State} {p : PState} {l : Byte} {n : Nat}

theorem State.scanSequence_complete (h : runParser .preambleOnly s.lreg xs = ⟨.complete, ⟨p, l⟩, n⟩) :
    s.scanSequence xs = ((s.setParser p l).setRpos n).succeed .complete := by
  simp [State.scanSequence, h, State.setFed]

theorem State.scanSequence_ended (h : runParser .preambleOnly s.lreg xs = ⟨.ended, ⟨p, l⟩, n⟩) :
    s.scanSequence xs = ((s.setParser p l).setRpos n).succeed .pending := by
  simp [State.scanSequence, h, State.setFed]

theorem State.parseSequence_complete (h : runParser .full s.lreg xs = ⟨.complete, ⟨p, l⟩, n⟩) :
    s.parseSequence xs = (((s.setParser p l).setRpos n).setRbyte l).succeed .complete := by
  simp [State.parseSequence, h, State.setFed]

theorem State.parseSequence_failed {e : Err} (h : runParser .full s.lreg xs = ⟨.failed e, ⟨p, l⟩, n⟩) :
    s.parseSequence xs = ((s.setParser p l).setRpos n).raise .hdrParse e := by
  simp [State.parseSequence, h, State.setFed]

theorem State.parseSequence_ended (h : runParser .full s.lreg xs = ⟨.ended, ⟨p, l⟩, n⟩) :
    s.parseSequence xs = ((s.setParser p l).setRpos n).succeed .pending := by
  simp [State.parseSequence, h, State.setFed]

end

/-! The parser run, by where the header stands. -/

/-- After the last byte of a sequence without a pair: ZERO for a 0x00, START for any other byte or none (R163 c). -/
theorem preambleState_start (xs : List Byte) :
    preambleState .start xs = if xs.getLast? = some 0x00#8 then .zero else .start := by
  unfold preambleState
  cases xs.getLast? <;> simp

/-- Without a pair the run ends with the sequence, its state told by the last byte (R163 c). -/
theorem runParser_noPair_getLast (m : Mode) (l : Byte) {xs : List Byte} (h : NoPair xs) :
    runParser m l xs = ⟨.ended, ⟨if xs.getLast? = some 0x00#8 then .zero else .start, l⟩, xs.length⟩ :=
  preambleState_start xs ▸ runParser_noPair m l h

section
variable {xs tail : List Byte} {k : Nat}

/-- A full run goes on from LEN over what follows the first pair. -/
theorem runParser_headerAt (l : Byte) (h : HeaderAt xs k tail) : runParser .full l xs = afterPair .full l (k + 1) tail :=
  h.2 ▸ runParser_firstPair .full l h.1

theorem length_of_headerAt (h : HeaderAt xs k tail) : xs.length = k + 1 + tail.length := by
  obtain ⟨hpair, rfl⟩ := h
  have := hpair.lt_length
  rw [List.length_drop]
  omega

end

/-! PRE.SCAN. -/

/-- Settles O15: the preamble-only run is over at the first pair, its step leaving PST in ZERO. -/
theorem preScanCompletesAtFirstPair : Obligations.PreScanCompletesAtFirstPair := by
  intro xs k s hi hpair
  exact exec_preScan_next.mpr ⟨hi, State.scanSequence_complete (s := s.begin) (runParser_firstPair .preambleOnly _ hpair)⟩

/-- Settles O16: without a pair the run ends with the sequence. -/
theorem preScanPendingWithoutPair : Obligations.PreScanPendingWithoutPair := by
  intro xs s hi hno
  exact exec_preScan_next.mpr ⟨hi, State.scanSequence_ended (s := s.begin) (runParser_noPair_getLast .preambleOnly _ hno)⟩

/-! HDR.PARSE. -/

/-- Settles O17: behind the pair the run takes LEN, LCS and TFI to DONE. -/
theorem hdrParseReachesDone : Obligations.HdrParseReachesDone := by
  intro xs rest l c k s hi hhdr hsum
  have hlcs : l + c = 0#8 := (add_eq_zero_iff_toNat_mod l c).mpr hsum
  have hrun := (runParser_headerAt s.lreg hhdr).trans (afterPair_done s.lreg l c (k + 1) rest hlcs)
  exact exec_hdrParse_next.mpr ⟨hi, State.parseSequence_complete (s := s.begin) hrun⟩

/-- Settles O18: the run fails at LCS when the bytes do not cancel, and at TFI when they do. -/
theorem hdrParseFailsAtFirstBadByte : Obligations.HdrParseFailsAtFirstBadByte := by
  refine ⟨fun xs rest l c k s hi hhdr hsum => ?badLcs, fun xs rest l c f k s hi hhdr hsum hf => ?badTfi⟩
  case badLcs =>
    have hlcs : l + c ≠ 0#8 := mt (add_eq_zero_iff_toNat_mod l c).mp hsum
    have hrun := (runParser_headerAt s.lreg hhdr).trans (afterPair_badLcs s.lreg l c (k + 1) rest hlcs)
    exact exec_hdrParse_next.mpr ⟨hi, State.parseSequence_failed (s := s.begin) hrun⟩
  case badTfi =>
    have hlcs : l + c = 0#8 := (add_eq_zero_iff_toNat_mod l c).mpr hsum
    have hrun := (runParser_headerAt s.lreg hhdr).trans (afterPair_badTfi s.lreg l c f (k + 1) rest hlcs hf)
    exact exec_hdrParse_next.mpr ⟨hi, State.parseSequence_failed (s := s.begin) hrun⟩

/-- A full run that ends in `p` after `n` bytes leaves HDR.PARSE pending there, without an error (R165, D28). -/
theorem exec_hdrParse_pending {xs : List Byte} {s : State} {p : PState} {l : Byte} {n : Nat} (hi : Idle s)
    (h : runParser .full s.lreg xs = ⟨.ended, ⟨p, l⟩, n⟩) :
    exec (.hdrParse xs) s = .next (okEnd .pending { s with pst := p, lreg := l, rpos := some n }) :=
  exec_hdrParse_next.mpr ⟨hi, State.parseSequence_ended (s := s.begin) h⟩

/-- Settles O19: before the pair, or behind it with none, one or two of the header's bytes, the run ends with the input. -/
theorem hdrParsePendingAtInputEnd : Obligations.HdrParsePendingAtInputEnd := by
  intro xs s hi
  refine ⟨fun hno => ?noPair, fun k hhdr => ?atLen, fun k l hhdr => ?atLcs, fun k l c hhdr hsum => ?atTfi⟩
  case noPair => exact exec_hdrParse_pending hi (runParser_noPair_getLast .full s.lreg hno)
  case atLen => exact length_of_headerAt hhdr ▸ exec_hdrParse_pending hi (runParser_headerAt s.lreg hhdr)
  case atLcs => exact length_of_headerAt hhdr ▸ exec_hdrParse_pending hi (runParser_headerAt s.lreg hhdr)
  case atTfi =>
    have hlcs : l + c = 0#8 := (add_eq_zero_iff_toNat_mod l c).mpr hsum
    have hrun := (runParser_headerAt s.lreg hhdr).trans (afterPair_two s.lreg l c (k + 1) hlcs)
    exact length_of_headerAt hhdr ▸ exec_hdrParse_pending hi hrun

end Sys2Proof.Machine
end

section
/-! PROOFS. The status byte of a window (O20; R182): a run from the byte behind it ends the same, one byte earlier. -/

namespace Sys2Proof.Machine

/-- The bytes consumed before a run only shift its count. -/
theorem feed_consumed_succ (z : ZeroInZeroFound) (m : Mode) (p : Parser) (n : Nat) (xs : List Byte) :
    feed z m p (n + 1) xs = { feed z m p n xs with consumed := (feed z m p n xs).consumed + 1 } := by
  induction xs generalizing p n with
  | nil => rfl
  | cons b bs ih =>
    simp only [feed]
    cases parserStep z m p b with
    | next p' => exact ih p' (n + 1)
    | complete | fail e | terminal => rfl

theorem ready_head_ne_zero {b : Byte} {bs : List Byte} (h : ready (b :: bs) = true) : b ≠ 0x00#8 := by
  rintro rfl
  simp [ready] at h

/-- Settles O20: a ready window's status byte is not 0x00, so START takes it and stays in START. -/
theorem statusByteMakesNoDifference : Obligations.StatusByteMakesNoDifference := by
  intro m l b ws h
  have hstart : parserStep Config.zeroInZeroFound m ⟨.start, l⟩ b = .next ⟨.start, l⟩ := if_neg (ready_head_ne_zero h)
  rw [runParser, feed, hstart]
  exact feed_consumed_succ _ m _ 0 ws

end Sys2Proof.Machine
end

section
/-! PROOFS. RECV and RECV.TO on a ready window: a frame delivered (O26, O27), each check that can fail (O28 to O31), and the
converse, that only a frame is accepted (O40, O41). -/

namespace Sys2Proof.Machine

open Sys2Proof.Claims

/-! What the two operations do with the end of their ready-read. -/

theorem State.received_window (s : State) (who : Raiser) (d : Nat) (ws : List Byte) :
    s.received who d (.window ws) = s.decodeWindow who d ws := rfl

section
variable {s : State} {waits rest : List ReadAttempt} {a : ReadAttempt} {r : ReadyEnd}

theorem exec_recv_answered (hs : IdleOnBus s) (ha : Answered s waits a r rest) (d : Nat) :
    exec (.recv d) s = .next ((s.begin.polled (waits ++ [a]) rest).received .other d r) := by
  obtain ⟨hi, hatt⟩ := hs
  obtain ⟨hr, hw, hans⟩ := ha
  exact exec_recv_next.mpr ⟨hi, hatt, State.recvFrom_answers (s := s.begin) hr hw hans d⟩

/-- The deadline is checked only over the attempts before the one that ends the ready-read (R69). -/
theorem exec_recvTo_answered (hs : IdleOnBus s) (ha : Answered s waits a r rest) {t : Duration} (ht : waitTime waits ≤ t.ms)
    (d : Nat) : exec (.recvTo d t) s = .next ((s.begin.polled (waits ++ [a]) rest).received .recvTo d r) := by
  obtain ⟨hi, hatt⟩ := hs
  obtain ⟨hr, hw, hans⟩ := ha
  exact exec_recvTo_next.mpr ⟨hi, hatt, State.recvToFrom_answers (s := s.begin) hr hw hans ht d⟩

end

/-! A window whose header is not reached, or fails. -/

section
variable {s : State} {waits rest : List ReadAttempt} {a : ReadAttempt} {ws : List Byte} {p : PState} {l : Byte} {n : Nat}

theorem exec_recv_ended (hs : IdleOnBus s) (ha : Answered s waits a (.window ws) rest)
    (h : runParser .full s.lreg ws = ⟨.ended, ⟨p, l⟩, n⟩) (d : Nat) :
    exec (.recv d) s = .next (plainErr .unexpectedEnd (parsedTo p l (windowed ws n (afterReads (waits ++ [a]) rest s)))) :=
  (exec_recv_answered hs ha d).trans
    (congrArg _ (State.decodeWindow_ended (s := s.begin.polled (waits ++ [a]) rest) h .other d))

theorem exec_recv_failed {e : Err} (hs : IdleOnBus s) (ha : Answered s waits a (.window ws) rest)
    (h : runParser .full s.lreg ws = ⟨.failed e, ⟨p, l⟩, n⟩) (d : Nat) :
    exec (.recv d) s = .next ((parsedTo p l (windowed ws n (afterReads (waits ++ [a]) rest s))).raise .other e) :=
  (exec_recv_answered hs ha d).trans
    (congrArg _ (State.decodeWindow_failed (s := s.begin.polled (waits ++ [a]) rest) h .other d))

end

/-- Settles O28: the run over the window fails at LCS when the bytes do not cancel, and at TFI when they do. -/
theorem recvRaisesHeaderErrors : Obligations.RecvRaisesHeaderErrors := by
  intro dcap k waits rest a ws tail l c f s hs ha
  refine ⟨fun hhdr hsum => ?badLcs, fun hhdr hsum hf => ?badTfi⟩
  case badLcs =>
    have hlcs : l + c ≠ 0#8 := mt (add_eq_zero_iff_toNat_mod l c).mp hsum
    exact exec_recv_failed hs ha ((runParser_headerAt s.lreg hhdr).trans (afterPair_badLcs _ l c (k + 1) tail hlcs)) dcap
  case badTfi =>
    have hlcs : l + c = 0#8 := (add_eq_zero_iff_toNat_mod l c).mpr hsum
    exact exec_recv_failed hs ha ((runParser_headerAt s.lreg hhdr).trans (afterPair_badTfi _ l c f (k + 1) tail hlcs hf)) dcap

/-! The checks after the header, in terms of the bytes behind the TFI. -/

/-- The fold is the seed and the sequence's sum, modulo 256 (R232). -/
theorem sum8_eq_ofNat_total (t : Byte) (xs : List Byte) : sum8 t xs = BitVec.ofNat 8 (t.toNat + total xs) := by
  apply BitVec.eq_of_toNat_eq
  rw [sum8_toNat, BitVec.toNat_ofNat]
  rfl

theorem sum8_tfiD2H_eq_zero_iff (xs : List Byte) : sum8 0xD5#8 xs = 0#8 ↔ (0xD5 + total xs) % 256 = 0 := by
  rw [← BitVec.toNat_inj, sum8_eq_ofNat_total, BitVec.toNat_ofNat]
  rfl

theorem total_concat (xs : List Byte) (d : Byte) : total (xs ++ [d]) = total xs + d.toNat := by simp [total]

section
variable {ws body : List Byte} {k : Nat} {l c : Byte}

theorem drop_of_headerAt (h : HeaderAt ws k (l :: c :: 0xD5#8 :: body)) : ws.drop (k + 4) = body := by
  rw [show k + 4 = k + 1 + 3 from rfl, ← List.drop_drop, h.2]
  rfl

/-- A window with a good header is judged by the bytes behind its TFI, in the order of R184 to R188. -/
theorem State.decodeWindow_headerAt (h : HeaderAt ws k (l :: c :: 0xD5#8 :: body)) (hsum : (l.toNat + c.toNat) % 256 = 0)
    (s : State) (who : Raiser) (d : Nat) :
    s.decodeWindow who d ws =
      if body.length < l.toNat then (s.parsed ws .done l (k + 4)).raise who .unexpectedEnd
      else if l.toNat = 0 then (s.parsed ws .done l (k + 4)).raise who (.invalidByte 0#8 .atLeastOne)
      else if sum8 0xD5#8 (body.take l.toNat) ≠ 0#8 then
        ((s.parsed ws .done l (k + 4)).setAcc (sum8 0xD5#8 (body.take l.toNat))).raise who .invalidChecksumData
      else (((s.parsed ws .done l (k + 4)).setAcc (sum8 0xD5#8 (body.take l.toNat))).deliver
        ((body.take l.toNat).take (min (l.toNat - 1) d))).succeed .none := by
  have hlcs : l + c = 0#8 := (add_eq_zero_iff_toNat_mod l c).mpr hsum
  have hrun := (runParser_headerAt s.lreg h).trans (afterPair_done s.lreg l c (k + 1) body hlcs)
  have hleft : ws.length - (k + 4) = body.length := by rw [← List.length_drop, drop_of_headerAt h]
  rw [State.decodeWindow_complete hrun]
  simp [State.checkBody, State.parsed, bodyOf, hleft, drop_of_headerAt h, Config.tfiD2H]

end

/-- Settles O29: the run ends with the window in each state before DONE, and after DONE the bytes left are counted first. -/
theorem recvTruncatedIsUnexpectedEnd : Obligations.RecvTruncatedIsUnexpectedEnd := by
  intro dcap waits rest a ws s hs ha
  refine ⟨fun hno => ?noPair, fun k hhdr => ?atLen, fun k l hhdr => ?atLcs, fun k l c hhdr hsum => ?atTfi,
    fun k l c body hhdr hsum hshort => ?inBody⟩
  case noPair => exact exec_recv_ended hs ha (runParser_noPair_getLast .full s.lreg hno) dcap
  case atLen => exact length_of_headerAt hhdr ▸ exec_recv_ended hs ha (runParser_headerAt s.lreg hhdr) dcap
  case atLcs => exact length_of_headerAt hhdr ▸ exec_recv_ended hs ha (runParser_headerAt s.lreg hhdr) dcap
  case atTfi =>
    have hlcs : l + c = 0#8 := (add_eq_zero_iff_toNat_mod l c).mpr hsum
    have hrun := (runParser_headerAt s.lreg hhdr).trans (afterPair_two s.lreg l c (k + 1) hlcs)
    exact length_of_headerAt hhdr ▸ exec_recv_ended hs ha hrun dcap
  case inBody =>
    rw [exec_recv_answered hs ha, State.received_window, State.decodeWindow_headerAt hhdr hsum, if_pos hshort]
    rfl

/-- Settles O30: no body is too short for a zero length, so the check on it is the one that fails. -/
theorem recvRejectsZeroLength : Obligations.RecvRejectsZeroLength := by
  intro dcap k waits rest a ws body c s hs ha hhdr hc
  have hsum : ((0x00#8 : Byte).toNat + c.toNat) % 256 = 0 := by simpa using hc
  have hlen : ¬ body.length < (0x00#8 : Byte).toNat := Nat.not_lt_zero _
  have hzero : (0x00#8 : Byte).toNat = 0 := rfl
  rw [exec_recv_answered hs ha, State.received_window, State.decodeWindow_headerAt hhdr hsum, if_neg hlen, if_pos hzero]
  rfl

/-- Settles O31: a body of `L` bytes passes the checks before, and its fold with 0xD5 is not zero. -/
theorem recvRejectsBadDataChecksum : Obligations.RecvRejectsBadDataChecksum := by
  intro dcap k waits rest a ws body trail l c s hs ha hhdr hsum hl hpos hbad
  have hlen : ¬ (body ++ trail).length < l.toNat := by simp [hl]
  have hzero : l.toNat ≠ 0 := by omega
  have hbody : (body ++ trail).take l.toNat = body := hl ▸ List.take_left
  have hfold : sum8 0xD5#8 body ≠ 0#8 := mt (sum8_tfiD2H_eq_zero_iff body).mp hbad
  rw [exec_recv_answered hs ha, State.received_window, State.decodeWindow_headerAt hhdr hsum, if_neg hlen, if_neg hzero,
    hbody, if_pos hfold, sum8_eq_ofNat_total]
  rfl

/-! A window that carries a frame, and the state its payload is delivered in. -/

/-- The first pair of `ws` is followed by a frame with length byte `l` and this payload, by the relations of the data model
(R90 to R94, R189); bytes may follow it. -/
def CarriesFrame (ws : List Byte) (k : Nat) (l : Byte) (payload : List Byte) : Prop :=
  ∃ c d trail, HeaderAt ws k (l :: c :: 0xD5#8 :: (payload ++ d :: trail)) ∧ (l.toNat + c.toNat) % 256 = 0 ∧
    l.toNat = payload.length + 1 ∧ (0xD5 + total payload + d.toNat) % 256 = 0

/-- The success of a receive on such a window (R187, R188). -/
def State.delivered (ws : List Byte) (k : Nat) (l : Byte) (payload : List Byte) (dcap : Nat) (s : State) : State :=
  okEnd .none { parsedTo .done l (windowed ws (k + 4) s) with
    acc := some 0x00#8, dst := s.dst.writeBytes 0 (payload.take dcap),
    rcount := some (BitVec.ofNat 8 (min payload.length dcap)) }

/-- A space after a payload was copied into it up to a capacity, byte by byte (R187). -/
theorem Memory.read_writeBytes_take (m : Memory) (payload : List Byte) (n j : Nat) :
    (m.writeBytes 0 (payload.take n)).read j = if j < min payload.length n then payload[j]? else m.read j := by
  have hread := Memory.read_writeBytes m 0 j (payload.take n)
  rw [Nat.sub_zero, Nat.zero_add, List.length_take, min_comm n] at hread
  rw [hread]
  by_cases hj : j < min payload.length n
  · rw [if_pos ⟨Nat.zero_le j, hj⟩, if_pos hj, List.getElem?_take_of_lt (lt_min_iff.mp hj).2]
  · rw [if_neg (fun h => hj h.2), if_neg hj]

/-- The body of a frame is its payload and its DCS. -/
theorem take_payload_dcs {n : Nat} {payload : List Byte} (h : n = payload.length + 1) (d : Byte) (trail : List Byte) :
    (payload ++ d :: trail).take n = payload ++ [d] := by
  simp [h, List.take_append]

/-- A frame passes every check, and the copy stops before its DCS. -/
theorem State.decodeWindow_carriesFrame {ws payload : List Byte} {k : Nat} {l : Byte} (h : CarriesFrame ws k l payload)
    (s : State) (who : Raiser) (dcap : Nat) : s.decodeWindow who dcap ws = s.delivered ws k l payload dcap := by
  obtain ⟨c, d, trail, hhdr, hsum, hl, hdcs⟩ := h
  have hlen : ¬ (payload ++ d :: trail).length < l.toNat := by simp [hl]
  have hzero : l.toNat ≠ 0 := by omega
  have hbody := take_payload_dcs hl d trail
  have hfold : sum8 0xD5#8 (payload ++ [d]) = 0#8 := by
    rwa [sum8_tfiD2H_eq_zero_iff, total_concat, ← Nat.add_assoc]
  have hcopy : (payload ++ [d]).take (min (l.toNat - 1) dcap) = payload.take dcap := by
    rw [hl, Nat.add_sub_cancel, min_comm, ← List.take_take, List.take_left]
  rw [State.decodeWindow_headerAt hhdr hsum, if_neg hlen, if_neg hzero, hbody, if_neg (not_not.mpr hfold), hfold, hcopy]
  simp only [State.deliver, List.length_take, min_comm dcap]
  rfl

/-- Settles O26: the window carries a frame. -/
theorem recvDeliversPayload : Obligations.RecvDeliversPayload := by
  intro dcap k waits rest a ws payload trail l c d s hs ha hhdr hsum hl hdcs
  have hdec := State.decodeWindow_carriesFrame ⟨c, d, trail, hhdr, hsum, hl, hdcs⟩
    (s.begin.polled (waits ++ [a]) rest) .other dcap
  exact ⟨_, (exec_recv_answered hs ha dcap).trans (congrArg _ hdec), Memory.read_writeBytes_take s.dst payload dcap⟩

/-- Settles O27: in time, RECV.TO decodes the same window. -/
theorem recvToDeliversPayload : Obligations.RecvToDeliversPayload := by
  intro dcap k t waits rest a ws payload trail l c d s hs ha ht hhdr hsum hl hdcs
  have hdec := State.decodeWindow_carriesFrame ⟨c, d, trail, hhdr, hsum, hl, hdcs⟩
    (s.begin.polled (waits ++ [a]) rest) .recvTo dcap
  exact ⟨_, (exec_recvTo_answered hs ha ht dcap).trans (congrArg _ hdec),
    Memory.read_writeBytes_take s.dst payload dcap⟩

/-! The converse. -/

/-- The bytes of a length of at least 1 are a payload and its DCS. -/
theorem exists_payload_dcs {n : Nat} {body : List Byte} (h0 : n ≠ 0) (hn : n ≤ body.length) :
    ∃ payload d trail, body = payload ++ d :: trail ∧ n = payload.length + 1 := by
  have hlt : n - 1 < body.length := by omega
  refine ⟨body.take (n - 1), body[n - 1], body.drop n, ?_, ?_⟩
  · conv_lhs => rw [← List.take_append_drop (n - 1) body, List.drop_eq_getElem_cons hlt, Nat.sub_add_cancel (by omega)]
  · rw [List.length_take]
    omega

/-- A full run reaches DONE only through a good header. -/
theorem headerAt_of_runParser_complete {l : Byte} {xs : List Byte} (h : (runParser .full l xs).how = .complete) :
    ∃ k len c body, HeaderAt xs k (len :: c :: 0xD5#8 :: body) ∧ (len.toNat + c.toNat) % 256 = 0 := by
  rcases runParser_full_cases l xs with ⟨-, hr⟩ | ⟨k, hk, ⟨-, hr⟩ | ⟨_, -, hr⟩ | ⟨_, _, -, -, hr⟩ | ⟨_, _, _, -, -, hr⟩ |
    ⟨_, _, _, _, -, -, -, hr⟩ | ⟨len, c, body, hd, hlcs, hr⟩⟩ <;> simp [hr] at h
  exact ⟨k, len, c, body, ⟨hk, hd⟩, (add_eq_zero_iff_toNat_mod len c).mp hlcs⟩

section
variable {s : State} {who : Raiser} {dcap : Nat} {ws : List Byte}

theorem runParser_complete_of_decodeWindow_ok (h : (s.decodeWindow who dcap ws).result = some .ok) :
    (runParser .full s.lreg ws).how = .complete := by
  rcases hf : runParser .full s.lreg ws with ⟨_ | e | _, ⟨p, l⟩, n⟩
  · rfl
  · rw [State.decodeWindow_failed hf] at h
    cases h
  · rw [State.decodeWindow_ended hf] at h
    cases h

/-- A decoding that ends in success found a frame (R195): behind the header every check passed. -/
theorem carriesFrame_of_decodeWindow_ok (h : (s.decodeWindow who dcap ws).result = some .ok) :
    ∃ k l payload, CarriesFrame ws k l payload := by
  obtain ⟨k, l, c, body, hhdr, hsum⟩ := headerAt_of_runParser_complete (runParser_complete_of_decodeWindow_ok h)
  rw [State.decodeWindow_headerAt hhdr hsum] at h
  split_ifs at h with hshort hzero hfold
  · cases h
  · cases h
  · cases h
  · obtain ⟨payload, d, trail, rfl, hl⟩ := exists_payload_dcs hzero (Nat.not_lt.mp hshort)
    rw [not_not, take_payload_dcs hl, sum8_tfiD2H_eq_zero_iff, total_concat, ← Nat.add_assoc] at hfold
    exact ⟨k, l, payload, c, d, trail, hhdr, hsum, hl, hfold⟩

end

/-! Everything a receive can do. -/

/-- A receive deals with the end of its ready-read, or it waits or times out having done nothing but reads. -/
theorem exec_receive_cases {d : Nat} {t : Duration} {s u : State}
    (h : exec (.recv d) s = .next u ∨ exec (.recvTo d t) s = .next u) :
    (∃ who waits a r rest, Answered s waits a r rest ∧ u = (s.begin.polled (waits ++ [a]) rest).received who d r) ∨
    ∃ reads trace, u = ({ s with reads := reads, trace := trace } : State).wait (.recv d) ∨
      u = ({ s with reads := reads, trace := trace } : State).raise .recvTo .timeout := by
  rcases h with h | h
  · obtain ⟨-, -, rfl⟩ := exec_recv_next.mp h
    rcases attempts_cases s.reads with hw | ⟨ws, a, r, rest, hr, hw, ha⟩
    · exact .inr ⟨_, _, .inl (State.recvFrom_waits (s := s.begin) hw d)⟩
    · exact .inl ⟨_, ws, a, r, rest, ⟨hr, hw, ha⟩, State.recvFrom_answers (s := s.begin) hr hw ha d⟩
  · obtain ⟨-, -, rfl⟩ := exec_recvTo_next.mp h
    rcases s.begin.recvToFrom_cases d t with ⟨-, -, e⟩ | ⟨ws, a, r, rest, hr, hw, ha, -, e⟩ | ⟨ws, a, rest, -, -, -, -, -, e⟩
    · exact .inr ⟨_, _, .inr e⟩
    · exact .inl ⟨_, ws, a, r, rest, ⟨hr, hw, ha⟩, e⟩
    · exact .inr ⟨_, _, .inr e⟩

/-- A receive that succeeds has delivered the frame its window carries. -/
theorem exec_receive_ok {d : Nat} {t : Duration} {s u : State}
    (h : exec (.recv d) s = .next u ∨ exec (.recvTo d t) s = .next u) (hi : u.opstate = .idle) (hok : u.result = some .ok) :
    ∃ waits a ws rest k l payload, Answered s waits a (.window ws) rest ∧ CarriesFrame ws k l payload ∧
      u = (s.begin.polled (waits ++ [a]) rest).delivered ws k l payload d := by
  rcases exec_receive_cases h with ⟨who, waits, a, r, rest, ha, rfl⟩ | ⟨reads, trace, rfl | rfl⟩
  · cases r with
    | terr e => cases hok
    | window ws =>
      obtain ⟨k, l, payload, hf⟩ := carriesFrame_of_decodeWindow_ok hok
      exact ⟨waits, a, ws, rest, k, l, payload, ha, hf, State.decodeWindow_carriesFrame hf _ who d⟩
  · cases hi
  · cases hok

/-- Settles O40: what was delivered is the payload of the frame found. -/
theorem acceptedWindowCarriesValidFrame : Obligations.AcceptedWindowCarriesValidFrame := by
  intro dcap t s u h hi hok
  obtain ⟨waits, a, ws, rest, k, l, payload, ha, ⟨c, d, trail, hhdr, hsum, hl, hdcs⟩, rfl⟩ := exec_receive_ok h hi hok
  exact ⟨waits, a, rest, ws, k, l, c, d, payload, trail, ha, rfl, hhdr, hsum, hl, hdcs, rfl,
    Memory.read_writeBytes_take s.dst payload dcap⟩

/-- In a ready window the frame's TFI has index 5 or more, so of 32 bytes at most 25 are payload (R194). -/
theorem CarriesFrame.bounds {ws payload : List Byte} {k : Nat} {l : Byte} (h : CarriesFrame ws k l payload)
    (hr : ready ws = true) (hlen : ws.length ≤ 32) : 2 ≤ k ∧ l.toNat = payload.length + 1 ∧ payload.length ≤ 25 := by
  obtain ⟨c, d, trail, hhdr, -, hl, -⟩ := h
  have hk := hhdr.1.two_le_of_ready hr
  have hws := length_of_headerAt hhdr
  simp only [List.length_cons, List.length_append] at hws
  omega

/-- Settles O41: the window that was accepted is ready and has at most 32 bytes. -/
theorem oneWindowCarriesAtMost25Bytes : Obligations.OneWindowCarriesAtMost25Bytes := by
  intro dcap t s u h hi hok
  obtain ⟨waits, a, ws, rest, k, l, payload, ⟨-, -, hans⟩, hf, rfl⟩ := exec_receive_ok h hi hok
  obtain ⟨hready, hlen⟩ := hans.window_ready
  obtain ⟨hk, hl, hp⟩ := hf.bounds hready hlen
  have hcount : (BitVec.ofNat 8 (min payload.length dcap)).toNat ≤ payload.length := by
    rw [BitVec.toNat_ofNat]
    exact (Nat.mod_le _ _).trans (min_le_left _ _)
  have hl26 : l.toNat ≤ 26 := hl.trans_le (Nat.succ_le_succ hp)
  exact ⟨Nat.add_le_add_right hk 4, hl26, hlen, _, rfl, hcount.trans hp, hcount.trans (Nat.le_sub_one_of_lt hl.ge)⟩

end Sys2Proof.Machine
end

section
/-! PROOFS. RECV.TO beside RECV (O33), its Timeout (O34), what both leave (O39), and the one ready-read of an operation (O51). -/

namespace Sys2Proof.Machine

open Sys2Proof.Claims

/-! The kind of raiser is seen only in an error. -/

/-- One end for every raiser: success, or an error other than Timeout. -/
def EndsAlike (f : Raiser → State) : Prop :=
  (∃ r u, ∀ who, f who = State.succeed r u) ∨ ∃ e u, e ≠ .timeout ∧ ∀ who, f who = State.raise who e u

theorem EndsAlike.succeed (r : RStat) (u : State) : EndsAlike fun _ => u.succeed r := .inl ⟨r, u, fun _ => rfl⟩

theorem EndsAlike.raise {e : Err} (he : e ≠ .timeout) (u : State) : EndsAlike fun who => u.raise who e :=
  .inr ⟨e, u, he, fun _ => rfl⟩

theorem EndsAlike.ite {c : Prop} [Decidable c] {f g : Raiser → State} (hf : EndsAlike f) (hg : EndsAlike g) :
    EndsAlike fun who => if c then f who else g who := by
  by_cases h : c
  · simpa only [if_pos h] using hf
  · simpa only [if_neg h] using hg

/-- Each check raises or goes on, whoever raises. -/
theorem State.checkBody_endsAlike (s : State) (d : Nat) : EndsAlike fun who => s.checkBody who d :=
  .ite (.raise (by simp) _) (.ite (.raise (by simp) _) (.ite (.raise (by simp) _) (.succeed _ _)))

theorem State.received_endsAlike (s : State) (d : Nat) (r : ReadyEnd) : EndsAlike fun who => s.received who d r := by
  cases r with
  | terr e => exact .raise (by simp) s
  | window ws =>
    rcases hf : runParser .full s.lreg ws with ⟨_ | e | _, ⟨p, l⟩, n⟩
    · simpa only [State.received_window, State.decodeWindow_complete hf] using (s.parsed ws p l n).checkBody_endsAlike d
    · have he : e ≠ .timeout := by
        rcases runParser_full_failed (congrArg Fed.how hf) with rfl | ⟨b, rfl⟩ <;> simp
      simpa only [State.received_window, State.decodeWindow_failed hf] using EndsAlike.raise he (s.parsed ws p l n)
    · simpa only [State.received_window, State.decodeWindow_ended hf] using EndsAlike.raise (by simp) (s.parsed ws p l n)

theorem Raiser.wraps_recvTo {e : Err} (he : e ≠ .timeout) : Raiser.recvTo.wraps e = true := by
  cases e with
  | timeout => exact absurd rfl he
  | _ => rfl

/-- Raised by RECV.TO, an error other than Timeout is the same error wrapped (R253). -/
theorem State.raise_recvTo {e : Err} (he : e ≠ .timeout) (s : State) :
    s.raise .recvTo e = { s.raise .other e with errwrap := true } := by
  rw [State.raise, Raiser.wraps_recvTo he]
  rfl

/-- RECV.TO ends as RECV does, ERRWRAP apart (R193). -/
theorem State.received_recvTo (s : State) (d : Nat) (r : ReadyEnd) :
    s.received .recvTo d r =
      { s.received .other d r with errwrap := decide ((s.received .other d r).result = some .err) } := by
  rcases s.received_endsAlike d r with ⟨x, u, h⟩ | ⟨e, u, he, h⟩ <;> beta_reduce at h
  · rw [h .recvTo, h .other]
    rfl
  · rw [h .recvTo, h .other, State.raise_recvTo he]
    rfl

/-- Settles O33: both operations deal with the same end of the ready-read. -/
theorem recvToWrapsErrorsOfRecv : Obligations.RecvToWrapsErrorsOfRecv := by
  intro dcap t waits rest a r s hs ha ht
  refine ⟨_, exec_recv_answered hs ha dcap, ?_⟩
  rw [exec_recvTo_answered hs ha ht, State.received_recvTo]

/-- Settles O34: the timed ready-read is past its deadline at a drawn attempt, or after all of them. -/
theorem recvToTimesOut : Obligations.RecvToTimesOut := by
  intro dcap t s ⟨hi, hatt⟩
  refine ⟨fun waits a rest hr hw ha ht hl => ?late, fun hn ht => ?silent⟩
  case late => exact exec_recvTo_next.mpr ⟨hi, hatt, State.recvToFrom_expires (s := s.begin) hr hw ha ht hl dcap⟩
  case silent => exact exec_recvTo_next.mpr ⟨hi, hatt, State.recvToFrom_silent (s := s.begin) hn ht dcap⟩

/-! What a receive leaves. -/

/-- The part after the ready-read leaves DST and RCOUNT unless it ends in success. -/
theorem State.Concludes.dst_rcount_of_err {who : Raiser} {s t : State} (h : s.Concludes who t) (he : t.result = some .err) :
    t.dst = s.dst ∧ t.rcount = s.rcount := by
  rcases h.how with ⟨r, u, rfl, -⟩ | ⟨e, u, rfl, -, -, hd, hc⟩
  · cases he
  · exact ⟨hd, hc⟩

/-- Settles O39: what a receive does beside its reads concludes it, or is a wait or a Timeout. -/
theorem receiveLeavesTheRest : Obligations.ReceiveLeavesTheRest := by
  intro dcap t s u h
  rcases exec_receive_cases h with ⟨who, waits, a, r, rest, -, rfl⟩ | ⟨reads, trace, rfl | rfl⟩
  · have hc := State.received_concludes (s.begin.polled (waits ++ [a]) rest) who dcap r
    have hk := hc.keeps
    refine ⟨fun j => ⟨congrArg (Memory.read · j) hk.pin, congrArg (Memory.read · j) hk.fbuf⟩, hk.rbyte, hk.rpos, hk.attached,
      hk.port, hk.resetIn, hk.writes, hk.writeResults, fun hend => ?_⟩
    have hbusy : (State.received who dcap r (s.begin.polled (waits ++ [a]) rest)).opstate ≠ .busy := by simp [hc.idle]
    have herr := hend.resolve_left hbusy
    obtain ⟨hdst, hrcount⟩ := hc.dst_rcount_of_err herr
    exact ⟨fun j => congrArg (Memory.read · j) hdst, hrcount⟩
  · exact ⟨fun _ => ⟨rfl, rfl⟩, rfl, rfl, rfl, rfl, rfl, rfl, rfl, fun _ => ⟨fun _ => rfl, rfl⟩⟩
  · exact ⟨fun _ => ⟨rfl, rfl⟩, rfl, rfl, rfl, rfl, rfl, rfl, rfl, fun _ => ⟨fun _ => rfl, rfl⟩⟩

/-! One ready-read. -/

/-- From `s` to `t` at most one ready-read was made: all attempts but the last were not ready (R64). -/
def State.ReadsOnce (s t : State) : Prop :=
  ∃ made, s.reads = made ++ t.reads ∧ ∀ a ∈ made.dropLast, a.NotReady

section
variable {s t : State}

theorem State.ReadsOnce.of_reads_eq (h : t.reads = s.reads) : s.ReadsOnce t := ⟨[], h.symm, by simp⟩

theorem State.ReadsOnce.of_waits (hw : ∀ a ∈ s.reads, a.NotReady) (h : t.reads = []) : s.ReadsOnce t :=
  ⟨s.reads, by simp [h], fun a ha => hw a (List.dropLast_subset _ ha)⟩

theorem State.ReadsOnce.of_last {ws : List ReadAttempt} {a : ReadAttempt} (hr : s.reads = ws ++ a :: t.reads)
    (hw : ∀ b ∈ ws, b.NotReady) : s.ReadsOnce t :=
  ⟨ws ++ [a], by simp [hr], by simpa using hw⟩

end

theorem State.readyReadOf_readsOnce (s : State) (p : Pending) : s.ReadsOnce (s.readyReadOf p) := by
  rcases attempts_cases s.reads with hw | ⟨ws, a, r, rest, hr, hw, ha⟩
  · rw [State.readyReadOf_waits hw]
    exact .of_waits hw rfl
  · rw [State.readyReadOf_answers hr hw ha]
    have hk := (State.answered_concludes (s.polled (ws ++ [a]) rest) p r).keeps
    exact .of_last (hr.trans (by rw [hk.reads]; rfl)) hw

theorem State.recvToFrom_readsOnce (s : State) (d : Nat) (t : Duration) : s.ReadsOnce (s.recvToFrom d t) := by
  rcases s.recvToFrom_cases d t with ⟨hw, -, e⟩ | ⟨ws, a, r, rest, hr, hw, -, -, e⟩ | ⟨ws, a, rest, hr, hw, -, -, -, e⟩ <;> rw [e]
  · exact .of_waits hw rfl
  · have hk := (State.received_concludes (s.polled (ws ++ [a]) rest) .recvTo d r).keeps
    exact .of_last (hr.trans (by rw [hk.reads]; rfl)) hw
  · exact .of_last hr hw

/-- Settles O51: the operations that receive make one ready-read each, SEND.ACK after its front, and the others make none. -/
theorem atMostOneReadyReadPerOperation : Obligations.AtMostOneReadyReadPerOperation := by
  intro i s t h
  cases i with
  | csumFold seed xs =>
    obtain ⟨-, rfl⟩ := exec_csumFold_next.mp h
    exact State.ReadsOnce.of_reads_eq rfl
  | preScan xs =>
    obtain ⟨-, rfl⟩ := exec_preScan_next.mp h
    exact State.ReadsOnce.of_reads_eq (s.begin.scanSequence_bus xs).2
  | hdrParse xs =>
    obtain ⟨-, rfl⟩ := exec_hdrParse_next.mp h
    exact State.ReadsOnce.of_reads_eq (s.begin.parseSequence_bus xs).2
  | send p => exact State.ReadsOnce.of_reads_eq (exec_send_keeps h).reads
  | recv d =>
    obtain ⟨-, -, rfl⟩ := exec_recv_next.mp h
    exact s.begin.readyReadOf_readsOnce (.recv d)
  | recvTo d w =>
    obtain ⟨-, -, rfl⟩ := exec_recvTo_next.mp h
    exact s.begin.recvToFrom_readsOnce d w
  | recvAck =>
    obtain ⟨-, -, rfl⟩ := exec_recvAck_next.mp h
    exact s.begin.readyReadOf_readsOnce .recvAck
  | sendAck p =>
    rcases State.sendBody_keeps (exec_sendAck_next.mp h).2 with hk | ⟨u, hk, rfl⟩
    · exact State.ReadsOnce.of_reads_eq hk.reads
    · obtain ⟨made, hm, hn⟩ := u.readyReadOf_readsOnce .sendAck
      exact ⟨made, hk.reads ▸ hm, hn⟩

end Sys2Proof.Machine
end

section
/-! PROOFS. The acknowledgement: RECV.ACK on a ready window (O44, O45) and what it leaves (O49); SEND.ACK as the front of SEND
with the acknowledgement behind it (O46, O47), which is SEND and then RECV.ACK (O48). -/

namespace Sys2Proof.Machine

open Sys2Proof.Claims

/-! Scanning a window. -/

theorem State.scanWindow_firstPair {ws : List Byte} {k : Nat} (h : FirstPair ws k) (s : State) :
    s.scanWindow ws = (s.parsed ws .zero s.lreg (k + 1)).succeed .none := by
  rcases s.scanWindow_cases ws with ⟨hno, -⟩ | ⟨j, hj, e⟩
  · exact absurd h.1 (hno k)
  · rw [e, hj.eq h]

theorem State.scanWindow_noPair {ws : List Byte} (h : NoPair ws) (s : State) :
    s.scanWindow ws = (s.parsed ws (if ws.getLast? = some 0x00#8 then .zero else .start) s.lreg ws.length).raise
      .other .unexpectedEnd := by
  rcases s.scanWindow_cases ws with ⟨-, e⟩ | ⟨k, hk, -⟩
  · rw [e, preambleState_start]
  · exact absurd hk.1 (h k)

/-! The acknowledgement part, from its ready-read on, in RECV.ACK and in SEND.ACK alike. -/

section
variable {s : State} {waits rest : List ReadAttempt} {a : ReadAttempt} {ws : List Byte}

/-- The scan succeeds at the first pair, whatever stands behind it (R211, R213). -/
theorem State.ackFrom_firstPair {k : Nat} (ha : Answered s waits a (.window ws) rest) (h : FirstPair ws k) (p : Pending) :
    s.ackFrom p = okEnd .none (parsedTo .zero s.lreg (windowed ws (k + 1) (afterReads (waits ++ [a]) rest s))) := by
  obtain ⟨hr, hw, hans⟩ := ha
  exact (State.ackFrom_window hr hw hans p).trans (State.scanWindow_firstPair h _)

/-- Without a pair the scan takes the whole window and raises UnexpectedEnd (R212). -/
theorem State.ackFrom_noPair (ha : Answered s waits a (.window ws) rest) (h : NoPair ws) (p : Pending) :
    s.ackFrom p = plainErr .unexpectedEnd (parsedTo (if ws.getLast? = some 0x00#8 then .zero else .start) s.lreg
      (windowed ws ws.length (afterReads (waits ++ [a]) rest s))) := by
  obtain ⟨hr, hw, hans⟩ := ha
  exact (State.ackFrom_window hr hw hans p).trans (State.scanWindow_noPair h _)

end

/-! RECV.ACK. -/

/-- Settles O44: the ready-read ends with the window, and its scan at the first pair. -/
theorem recvAckAcceptsFirstPair : Obligations.RecvAckAcceptsFirstPair := by
  intro k waits rest a ws s ⟨hi, hatt⟩ ha hpair
  exact exec_recvAck_next.mpr ⟨hi, hatt, State.ackFrom_firstPair (s := s.begin) ha hpair .recvAck⟩

/-- Settles O45: the ready-read ends with the window, and its scan with the last byte. -/
theorem recvAckWithoutPairFails : Obligations.RecvAckWithoutPairFails := by
  intro waits rest a ws s ⟨hi, hatt⟩ ha hno
  exact exec_recvAck_next.mpr ⟨hi, hatt, State.ackFrom_noPair (s := s.begin) ha hno .recvAck⟩

/-- Settles O49: beside its reads the acknowledgement part writes only the window, PST and the record. -/
theorem recvAckLeavesTheRest : Obligations.RecvAckLeavesTheRest := by
  intro s t h
  obtain ⟨-, -, rfl⟩ := exec_recvAck_next.mp h
  obtain ⟨⟨made, left, hk⟩, hdst, hrcount, hacc, hlreg⟩ := s.begin.ackFrom_leaves .recvAck
  exact ⟨fun j => ⟨congrArg (Memory.read · j) hdst, congrArg (Memory.read · j) hk.pin, congrArg (Memory.read · j) hk.fbuf⟩,
    hrcount, hk.rbyte, hk.rpos, hacc, hlreg, hk.attached, hk.port, hk.resetIn, hk.writes, hk.writeResults⟩

/-! SEND.ACK. -/

/-- Once the frame is written, SEND.ACK is in its acknowledgement part (R215). -/
theorem exec_sendAck_accepted {p : List Byte} {s : State} (hs : IdleOnBus s) (hl : p.length ≤ 254) (hd : s.drawWrite = .ok) :
    exec (.sendAck p) s = .next ((afterWrite p .ok (framed p s.begin)).ackFrom .sendAck) :=
  exec_sendAck_next.mpr ⟨hs.1, State.sendBody_accepted (s := s.begin) hl hs.2 hd _⟩

/-- Settles O46: the window behind the written frame is scanned to its first pair. -/
theorem sendAckWritesThenReads : Obligations.SendAckWritesThenReads := by
  intro k p waits rest a ws s hs hl hd ha hpair
  rw [exec_sendAck_accepted hs hl hd, State.ackFrom_firstPair (s := afterWrite p .ok (framed p s.begin)) ha hpair]
  rfl

/-- Settles O47: behind the written frame the acknowledgement part fails on its window or its read, or waits. -/
theorem sendAckKeepsFrameOnAckFailure : Obligations.SendAckKeepsFrameOnAckFailure := by
  intro p waits rest a s hs hl hd
  rw [exec_sendAck_accepted hs hl hd]
  refine ⟨fun ws ha hno => ?noPair, fun e ⟨hr, hw, hans⟩ => ?readFails, fun hw => ?waits⟩
  case noPair => exact congrArg _ (State.ackFrom_noPair (s := afterWrite p .ok (framed p s.begin)) ha hno .sendAck)
  case readFails => exact congrArg _ (State.ackFrom_fails (s := afterWrite p .ok (framed p s.begin)) hr hw hans .sendAck)
  case waits => exact congrArg _ (State.ackFrom_waits (s := afterWrite p .ok (framed p s.begin)) hw .sendAck)

/-! SEND.ACK beside SEND and RECV.ACK. -/

/-- SEND.ACK ends where SEND raises an error, and goes on where SEND returns (R215). -/
theorem exec_sendAck_of_send {p : List Byte} {s t : State} (h : exec (.send p) s = .next t) :
    (t.result = some .err ∧ exec (.sendAck p) s = .next t) ∨
    ∃ sent : State, t = sent.succeed .none ∧ exec (.sendAck p) s = .next (sent.ackFrom .sendAck) := by
  obtain ⟨hi, hs⟩ := exec_send_next.mp h
  rcases State.sendBody_cases hs with ⟨hl, rfl⟩ | ⟨hl, ha, e, hd, rfl⟩ | ⟨hl, ha, hd, rfl⟩
  · exact .inl ⟨rfl, exec_sendAck_next.mpr ⟨hi, State.sendBody_tooLong hl _⟩⟩
  · exact .inl ⟨rfl, exec_sendAck_next.mpr ⟨hi, State.sendBody_next.mpr (.inr ⟨hl, ha, State.sendThen_terr (by exact hd) _⟩)⟩⟩
  · exact .inr ⟨_, rfl, exec_sendAck_next.mpr ⟨hi, State.sendBody_next.mpr (.inr ⟨hl, ha, State.sendThen_ok (by exact hd) _⟩)⟩⟩

/-- How the acknowledgement ends does not depend on SEND having returned before it: what a return and the next command's
acceptance write is written again at the end and not read on the way there. -/
theorem State.acknowledged_succeed_begin (s : State) (x : RStat) (r : ReadyEnd) :
    (s.succeed x).begin.acknowledged r = s.acknowledged r := by
  cases r <;> rfl

/-- An acknowledgement that ends is the same after SEND's return as within SEND.ACK. -/
theorem State.ackFrom_succeed_begin {s : State} {x : RStat} {p : Pending}
    (h : ((s.succeed x).begin.ackFrom p).opstate = .idle) (q : Pending) :
    (s.succeed x).begin.ackFrom p = s.ackFrom q := by
  rcases attempts_cases s.reads with hw | ⟨ws, a, r, rest, hr, hw, ha⟩
  · rw [State.ackFrom_waits (s := (s.succeed x).begin) hw] at h
    cases h
  · rw [State.ackFrom_answers (s := (s.succeed x).begin) hr hw ha, State.ackFrom_answers hr hw ha]
    exact (s.polled (ws ++ [a]) rest).acknowledged_succeed_begin x r

/-- Settles O48: SEND raises an error for both, or both go on to one acknowledgement, which ends alike or waits in both. -/
theorem sendAckIsSendThenRecvAck : Obligations.SendAckIsSendThenRecvAck := by
  intro p s t h
  rcases exec_sendAck_of_send h with ⟨herr, hack⟩ | ⟨sent, rfl, hack⟩
  · have hok : t.result ≠ some .ok := by simp [herr]
    exact ⟨fun _ => hack, fun _ h => absurd h hok, fun _ h => absurd h hok⟩
  · rw [hack]
    refine ⟨fun h => ?failed, fun u _ hu hidle => ?ends, fun u _ hu hbusy => ?waits⟩
    case failed => cases h
    case ends =>
      obtain ⟨-, -, rfl⟩ := exec_recvAck_next.mp hu
      rw [State.ackFrom_succeed_begin hidle]
    case waits =>
      obtain ⟨-, -, rfl⟩ := exec_recvAck_next.mp hu
      have hw : ∀ a ∈ sent.reads, a.NotReady :=
        State.notReady_of_readyReadOf_busy (s := (sent.succeed .none).begin) (p := .recvAck) hbusy
      rw [State.ackFrom_waits (s := (sent.succeed .none).begin) hw, State.ackFrom_waits hw]
      exact ⟨_, rfl, rfl, rfl, rfl, rfl, rfl⟩

end Sys2Proof.Machine
end

section
/-! PROOFS. The checksum fold: CSUM.FOLD's next state (O10), two of them chained (O11), and the bytes that cancel a sum (O12). -/

namespace Sys2Proof.Machine

open Sys2Proof.Claims

theorem exec_csumFold {s : State} (hs : Idle s) (seed : Byte) (xs : List Byte) :
    exec (.csumFold seed xs) s =
      .next (okEnd .none { s with acc := some (sum8 seed xs), rbyte := some (sum8 seed xs) }) :=
  exec_csumFold_next.mpr ⟨hs, rfl⟩

/-- Settles O10: the fold that ACC and RBYTE receive is the source's sum (R232). -/
theorem csumFoldIsSumModulo256 : Obligations.CsumFoldIsSumModulo256 := by
  intro seed xs s hs
  rw [exec_csumFold hs, sum8_eq_ofNat_total]

/-- Settles O11: the first fold leaves an idle block with its result in RBYTE, the seed from which the second goes on over
`ys`; what the first wrote, the second writes again. -/
theorem csumFoldComposes : Obligations.CsumFoldComposes := by
  intro seed r xs ys s t hs ht hr
  obtain ⟨-, rfl⟩ := exec_csumFold_next.mp ht
  obtain rfl : sum8 seed xs = r := Option.some.inj hr
  rw [exec_csumFold hs, sum8_append_list]
  exact exec_csumFold (State.succeed_opstate _ .none) (sum8 seed xs) ys

theorem neg8_eq_ofNat (a : Byte) : neg8 a = BitVec.ofNat 8 ((256 - a.toNat) % 256) := by
  rw [← neg8_toNat, BitVec.ofNat_toNat, BitVec.setWidth_eq]

theorem neg8_sum8_eq_ofNat (t : Byte) (p : List Byte) :
    neg8 (sum8 t p) = BitVec.ofNat 8 ((256 - (t.toNat + total p) % 256) % 256) := by
  rw [neg8_eq_ofNat, sum8_toNat]
  rfl

theorem neg8_add (a b : Byte) : neg8 (a + b) = neg8 a - b := by
  simp only [neg8]
  bv_omega

/-- Settles O12: a byte cancels a sum exactly when it is the sum's `neg8`, which for both checksum bytes is the source's
formula; and a seed one higher makes every sum one higher, so its negation one lower (R236). -/
theorem checksumBytesAreUnique : Obligations.ChecksumBytesAreUnique := by
  refine ⟨fun t d p => ?dcs, fun l c => ?lcs, fun p => ?inbound⟩
  case dcs =>
    rw [sum8_append_list, ← neg8_sum8_eq_ofNat]
    exact add_eq_zero_iff_eq_neg8 (sum8 t p) d
  case lcs =>
    rw [← neg8_eq_ofNat]
    exact add_eq_zero_iff_eq_neg8 l c
  case inbound =>
    have hseed : sum8 0xD5#8 p = sum8 0xD4#8 p + 1#8 := sum8_add_seed 0xD4#8 1#8 p
    rw [hseed, neg8_add]

end Sys2Proof.Machine
end

section
/-! PROOFS. How an operation ends: it returns, raises by the rule of R253, or waits (O52, O53, O54); and that nothing faults
(O57). -/

namespace Sys2Proof.Machine

open Sys2Proof.Claims

/-! The rule of the error record, error by error (R252, R253). -/

theorem Err.errcode_ne_none (e : Err) : e.errcode ≠ .none := by
  cases e <;> simp [Err.errcode]

/-- Only InvalidByte carries a byte and what was expected. -/
theorem Err.byte_expected_of_ne_invalidByte {e : Err} (h : e.errcode ≠ .invalidByte) : e.byte = 0#8 ∧ e.expected = .none := by
  cases e with
  | invalidByte b x => exact absurd rfl h
  | _ => exact ⟨rfl, rfl⟩

theorem Err.expected_of_invalidByte {e : Err} (hb : ∀ b, e ≠ .invalidByte b .none) (h : e.errcode = .invalidByte) :
    e.expected = .tfiD2H ∨ e.expected = .atLeastOne := by
  cases e with
  | invalidByte b x =>
    cases x with
    | none => exact absurd rfl (hb b)
    | tfiD2H => exact .inl rfl
    | atLeastOne => exact .inr rfl
  | _ => cases h

theorem Err.token_isSome (e : Err) : e.token.isSome = true ↔ e.errcode = .transportWrite ∨ e.errcode = .transportRead := by
  cases e <;> simp [Err.token, Err.errcode]

theorem Raiser.wraps_iff (who : Raiser) (e : Err) : who.wraps e = true ↔ who = .recvTo ∧ e.errcode ≠ .timeout := by
  rw [ne_eq, Err.errcode_eq_timeout]
  cases who with
  | recvTo => exact ⟨fun h => ⟨rfl, by rintro rfl; cases h⟩, fun h => Raiser.wraps_recvTo h.2⟩
  | hdrParse | other => simp [Raiser.wraps]

theorem Raiser.rstat_eq_none {who : Raiser} (h : who ≠ .hdrParse) : who.rstat = .none := by
  cases who with
  | hdrParse => exact absurd rfl h
  | recvTo | other => rfl

/-! The kinds of operation. -/

/-- The raiser an operation is (R253). -/
def raiserOf : Instr → Raiser
  | .hdrParse _ => .hdrParse
  | .recvTo _ _ => .recvTo
  | _ => .other

theorem raiserOf_eq_hdrParse {i : Instr} : raiserOf i = .hdrParse ↔ ∃ xs, i = .hdrParse xs := by
  cases i <;> simp [raiserOf]

theorem raiserOf_eq_recvTo {i : Instr} : raiserOf i = .recvTo ↔ ∃ d w, i = .recvTo d w := by
  cases i <;> simp [raiserOf]

/-- As what an operation waits in its blocking ready-read (R66), if it makes one. -/
def waitsAs : Instr → Option Pending
  | .recv d => some (.recv d)
  | .recvAck => some .recvAck
  | .sendAck _ => some .sendAck
  | _ => none

/-- An operation that can wait raises as an operation of the common kind. -/
theorem raiserOf_of_waitsAs {i : Instr} {p : Pending} (h : waitsAs i = some p) : raiserOf i = .other := by
  cases i with
  | hdrParse _ | recvTo _ _ => cases h
  | _ => rfl

/-! Everything an operation can come to. -/

/-- The result registers that an error does not write are the same (R253). -/
structure State.SameResults (s u : State) : Prop where
  result : u.result = s.result
  rcount : u.rcount = s.rcount
  rbyte : u.rbyte = s.rbyte
  rpos : u.rpos = s.rpos

/-- What the operation `i`, issued in `s`, comes to: it has returned (R254) or raised an error (R253), or it waits (R66). -/
inductive Ends (i : Instr) (s : State) : State → Prop where
  | returns (r : RStat) (u : State) : Ends i s (u.succeed r)
  | raises {e : Err} {u : State} (expects : ∀ b, e ≠ .invalidByte b .none) (rcount : u.rcount = s.rcount)
      (rbyte : u.rbyte = s.rbyte) (rpos : raiserOf i ≠ .hdrParse → u.rpos = s.rpos) : Ends i s (u.raise (raiserOf i) e)
  | waits {p : Pending} {u : State} (blocks : waitsAs i = some p) (result : u.result = s.result) : Ends i s (u.wait p)

section
variable {i : Instr} {s u t : State}

theorem Ends.of_raise {who : Raiser} {e : Err} (hwho : raiserOf i = who) (expects : ∀ b, e ≠ .invalidByte b .none)
    (hu : s.SameResults u) : Ends i s (u.raise who e) :=
  hwho ▸ .raises expects hu.rcount hu.rbyte fun _ => hu.rpos

theorem Ends.of_concludes {who : Raiser} (hwho : raiserOf i = who) (hu : s.SameResults u) (h : u.Concludes who t) :
    Ends i s t := by
  subst hwho
  rcases h with ⟨hk, -, ⟨r, v, rfl, -⟩ | ⟨e, v, rfl, hb, -, -, hc⟩⟩
  · exact .returns r v
  · exact .raises hb (hc.trans hu.rcount) (hk.rbyte.trans hu.rbyte) fun _ => hk.rpos.trans hu.rpos

theorem State.SameResults.polled (hu : s.SameResults u) (made left : List ReadAttempt) : s.SameResults (u.polled made left) :=
  ⟨hu.result, hu.rcount, hu.rbyte, hu.rpos⟩

/-- The blocking ready-read waits, or what is behind it concludes the operation. -/
theorem State.readyReadOf_ends {p : Pending} (hp : waitsAs i = some p) (hu : s.SameResults u) : Ends i s (u.readyReadOf p) := by
  rcases attempts_cases u.reads with hw | ⟨ws, a, r, rest, hr, hw, ha⟩
  · rw [State.readyReadOf_waits hw]
    exact .waits hp hu.result
  · rw [State.readyReadOf_answers hr hw ha]
    exact .of_concludes (raiserOf_of_waitsAs hp) (hu.polled _ _) (State.answered_concludes _ p r)

/-- The timed ready-read times out, or what is behind it concludes the operation. -/
theorem State.recvToFrom_ends (hi : raiserOf i = .recvTo) (hu : s.SameResults u) (d : Nat) (w : Duration) :
    Ends i s (u.recvToFrom d w) := by
  rcases u.recvToFrom_cases d w with ⟨-, -, e⟩ | ⟨ws, a, r, rest, -, -, -, -, e⟩ | ⟨ws, a, rest, -, -, -, -, -, e⟩ <;> rw [e]
  · exact .of_raise hi (by simp) ⟨hu.result, hu.rcount, hu.rbyte, hu.rpos⟩
  · exact .of_concludes hi (hu.polled _ _) (State.received_concludes _ .recvTo d r)
  · exact .of_raise hi (by simp) (hu.polled _ _)

/-- The front of SEND and SEND.ACK raises one of SEND's two errors, or `k` ends the operation (R131, R138 to R140). -/
theorem State.sendBody_ends {pin : List Byte} {k : State → State} (hi : raiserOf i = .other)
    (hk : ∀ u, s.SameResults u → Ends i s (k u)) (h : s.begin.sendBody pin k = .next t) : Ends i s t := by
  rcases State.sendBody_cases h with ⟨-, rfl⟩ | ⟨-, -, e, -, rfl⟩ | ⟨-, -, -, rfl⟩
  · exact .of_raise hi (by simp) ⟨rfl, rfl, rfl, rfl⟩
  · exact .of_raise hi (by simp) ⟨rfl, rfl, rfl, rfl⟩
  · exact hk _ ⟨rfl, rfl, rfl, rfl⟩

theorem State.scanSequence_ends (xs : List Byte) : Ends i s (u.scanSequence xs) := by
  simp only [State.scanSequence]
  split <;> exact .returns _ _

theorem State.parseSequence_ends (hi : raiserOf i = .hdrParse) (hu : s.SameResults u) (xs : List Byte) :
    Ends i s (u.parseSequence xs) := by
  simp only [State.parseSequence]
  split
  · exact .returns _ _
  · next e he =>
    have expects : ∀ b, e ≠ .invalidByte b .none := by
      rcases runParser_full_failed he with rfl | ⟨b, rfl⟩ <;> simp
    exact hi ▸ .raises expects hu.rcount hu.rbyte fun hne => absurd hi hne
  · exact .returns _ _

/-- Every operation that is carried out returns, raises or waits. -/
theorem exec_ends (h : exec i s = .next t) : Ends i s t := by
  have hs : s.SameResults s.begin := ⟨rfl, rfl, rfl, rfl⟩
  cases i with
  | csumFold seed xs =>
    obtain ⟨-, rfl⟩ := exec_csumFold_next.mp h
    exact .returns _ _
  | preScan xs =>
    obtain ⟨-, rfl⟩ := exec_preScan_next.mp h
    exact State.scanSequence_ends xs
  | hdrParse xs =>
    obtain ⟨-, rfl⟩ := exec_hdrParse_next.mp h
    exact State.parseSequence_ends rfl hs xs
  | send pin => exact State.sendBody_ends rfl (fun u _ => .returns .none u) (exec_send_next.mp h).2
  | recv d =>
    obtain ⟨-, -, rfl⟩ := exec_recv_next.mp h
    exact State.readyReadOf_ends (p := .recv d) rfl hs
  | recvTo d w =>
    obtain ⟨-, -, rfl⟩ := exec_recvTo_next.mp h
    exact State.recvToFrom_ends rfl hs d w
  | recvAck =>
    obtain ⟨-, -, rfl⟩ := exec_recvAck_next.mp h
    exact State.readyReadOf_ends (p := .recvAck) rfl hs
  | sendAck pin =>
    exact State.sendBody_ends rfl (fun u hu => State.readyReadOf_ends (p := .sendAck) rfl hu) (exec_sendAck_next.mp h).2

end

/-- The front of SEND and SEND.ACK is carried out with a transport attached, whatever the payload. -/
theorem State.sendBody_attached {s : State} (ha : s.attached = true) (pin : List Byte) (k : State → State) :
    ∃ t, s.sendBody pin k = .next t := by
  rcases Nat.lt_or_ge 254 pin.length with hl | hl
  · exact ⟨_, State.sendBody_next.mpr (.inl ⟨hl, rfl⟩)⟩
  · exact ⟨_, State.sendBody_next.mpr (.inr ⟨hl, ha, rfl⟩)⟩

/-- Every operation is carried out on an idle block with a transport attached (R110, R292). -/
theorem exec_next_of_idleOnBus {s : State} (h : IdleOnBus s) (i : Instr) : ∃ t, exec i s = .next t := by
  obtain ⟨hi, ha⟩ := h
  cases i with
  | csumFold seed xs => exact ⟨_, exec_csumFold_next.mpr ⟨hi, rfl⟩⟩
  | preScan xs => exact ⟨_, exec_preScan_next.mpr ⟨hi, rfl⟩⟩
  | hdrParse xs => exact ⟨_, exec_hdrParse_next.mpr ⟨hi, rfl⟩⟩
  | send pin =>
    obtain ⟨t, ht⟩ := State.sendBody_attached (s := s.begin) ha pin _
    exact ⟨t, exec_send_next.mpr ⟨hi, ht⟩⟩
  | recv d => exact ⟨_, exec_recv_next.mpr ⟨hi, ha, rfl⟩⟩
  | recvTo d w => exact ⟨_, exec_recvTo_next.mpr ⟨hi, ha, rfl⟩⟩
  | recvAck => exact ⟨_, exec_recvAck_next.mpr ⟨hi, ha, rfl⟩⟩
  | sendAck pin =>
    obtain ⟨t, ht⟩ := State.sendBody_attached (s := s.begin) ha pin _
    exact ⟨t, exec_sendAck_next.mpr ⟨hi, ht⟩⟩

/-- Settles O52: a result is recorded on both ways to end, and only an operation with a blocking ready-read waits. -/
theorem everyOperationEndsOrWaits : Obligations.EveryOperationEndsOrWaits := by
  intro i s h
  obtain ⟨t, ht⟩ := exec_next_of_idleOnBus h i
  refine ⟨t, ht, ?_⟩
  cases exec_ends ht with
  | returns r u => exact .inl ⟨rfl, rfl, rfl⟩
  | raises => exact .inl ⟨rfl, rfl, rfl⟩
  | waits blocks result =>
    refine .inr ⟨rfl, rfl, result, ?_⟩
    cases i with
    | recv _ | recvAck | sendAck _ => trivial
    | _ => cases blocks

/-- Settles O53: of the ways to come to an end only a return leaves RESULT 0, and it clears the record. -/
theorem successClearsErrorRecord : Obligations.SuccessClearsErrorRecord := by
  intro i s t h hidle hok
  cases exec_ends h with
  | returns r u =>
    simp only [clientReadReg_idle hidle]
    exact ⟨rfl, rfl, rfl, rfl, rfl, rfl⟩
  | raises => cases hok
  | waits => cases hidle

/-- Settles O54: of the ways to come to an end only an error leaves RESULT 1, and the record is that error's. -/
theorem errorRecordFollowsItsRule : Obligations.ErrorRecordFollowsItsRule := by
  intro i s t h hidle herr
  obtain ⟨hresult, -, -, -, -, hrstat, hcode, hbyte, hexp, hwrap, -⟩ := (clientReadsResultRegisters t).2 hidle
  cases exec_ends h with
  | returns => cases herr
  | waits => cases hidle
  | @raises e u expects rcount rbyte rpos =>
    simp only [← not_exists, ← raiserOf_eq_hdrParse, ← raiserOf_eq_recvTo]
    refine ⟨hresult, ⟨e.errcode_ne_none, hcode⟩, hexp, fun hi => ?_, fun hi => ?_, fun hc => ?_,
      Err.expected_of_invalidByte expects, e.token_isSome, ?_, rpos, rcount, rbyte⟩
    · rw [hrstat, State.raise_rstat, hi]
      rfl
    · rw [hrstat, State.raise_rstat, Raiser.rstat_eq_none hi]
      rfl
    · obtain ⟨hbyte0, hexp0⟩ := Err.byte_expected_of_ne_invalidByte hc
      rw [hbyte, hexp, State.raise_errbyte, State.raise_errexp, hbyte0, hexp0]
      exact ⟨rfl, rfl⟩
    · rw [hwrap, State.raise_errwrap, State.raise_errcode, ← Raiser.wraps_iff]
      simp

/-! Nothing faults (R258). -/

section
variable {s : State} {f : Fault}

theorem next_ne_fault (t : State) : (.next t : Answer) ≠ .fault f := nofun

theorem State.accept_ne_fault {k : State → Answer} (hk : ∀ u, k u ≠ .fault f) : s.accept k ≠ .fault f := by
  unfold State.accept
  split
  · exact hk _
  · nofun

theorem State.withTransport_ne_fault {k : State → Answer} (hk : ∀ u, k u ≠ .fault f) : s.withTransport k ≠ .fault f := by
  unfold State.withTransport
  split
  · exact hk _
  · nofun

theorem State.sendBody_ne_fault {pin : List Byte} {k : State → State} : s.sendBody pin k ≠ .fault f := by
  simp only [State.sendBody]
  split
  · exact next_ne_fault _
  · exact State.withTransport_ne_fault fun _ => next_ne_fault _

/-- No operation faults: its parts lead to a state, or refuse. -/
theorem exec_ne_fault (i : Instr) : exec i s ≠ .fault f := by
  cases i with
  | csumFold _ _ | preScan _ | hdrParse _ => exact State.accept_ne_fault fun _ => next_ne_fault _
  | recv _ | recvTo _ _ | recvAck => exact State.accept_ne_fault fun _ => State.withTransport_ne_fault fun _ => next_ne_fault _
  | send _ | sendAck _ => exact State.accept_ne_fault fun _ => State.sendBody_ne_fault

theorem State.advance_ne_fault (s : State) : s.advance ≠ .fault f := by
  rcases s.advance_cases with ⟨-, e⟩ | ⟨-, -, e⟩ | ⟨c, rest, r, -, -, -, e⟩ | ⟨c, rest, i, -, -, -, e⟩ <;> rw [e]
  · exact next_ne_fault _
  · exact next_ne_fault _
  · nofun
  · exact exec_ne_fault i

theorem step_ne_fault (s : State) : step s ≠ .fault f := by
  cases h : s.resetIn with
  | none => rw [step_released h]; exact s.advance_ne_fault
  | some r => rw [step_reset h]; exact next_ne_fault _

end

/-- Settles O57, by induction on the length of the run: no step of it faults. -/
theorem noRunFaults : Obligations.NoRunFaults := by
  intro s k f
  induction k generalizing s with
  | zero => nofun
  | succ k ih =>
    simp only [Host.Core.run]
    split
    · exact ih _
    · next hstep => exact absurd hstep (step_ne_fault s)
    · nofun

end Sys2Proof.Machine
end

section
/-! PROOFS. The reset input (O2): what stands where it lands, between two steps or within one, and what reset then leaves. -/

namespace Sys2Proof.Machine

variable {s t : State} {new : List BusEvent}

/-- Between two steps nothing has been done, and neither has a refused command (R290). -/
theorem State.atReset_eq_self {r : ResetPoint} (h : r = .between ∨ ∃ q, s.release.advance = .refused q) :
    s.atReset r = s := by
  rcases h with rfl | ⟨q, hq⟩
  · exact s.atReset_between
  · cases r with
    | between => exact s.atReset_between
    | within n => exact State.atReset_refused hq

/-! An operation broken off, by the bus events `new` it would have made (R290; log entry 9). -/

theorem State.brokenOff_trace_of_append (h : t.trace = s.trace ++ new) (n : Nat) :
    (s.brokenOff n t).trace = s.trace ++ new.take n := by
  rw [State.brokenOff_trace, h, List.drop_left]

theorem State.brokenOff_dst_read_of_append (h : t.trace = s.trace ++ new) (n i : Nat) :
    (s.brokenOff n t).dst.read i = if i < n - new.length then t.dst.read i else s.dst.read i := by
  rw [State.brokenOff_dst, h, List.drop_left, Memory.read_splice]

/-- Settles O2: reset overwrites the registers whatever stands when it lands, and keeps what stands of DST, PIN and the bus. -/
theorem resetInputEndsAnyOperation : Obligations.ResetInputEndsAnyOperation := by
  intro s r hr
  refine ⟨(s.atReset r).assertReset, step_reset hr, rfl, rfl, rfl, rfl, rfl, rfl, rfl, rfl, rfl, rfl, rfl, rfl, rfl, rfl, rfl,
    rfl, rfl, fun i => ⟨Memory.read_nil i, Memory.read_nil i⟩, fun h => ?unchanged, fun n u new hn hu hnew => ?brokenOff⟩
  case unchanged =>
    rw [State.atReset_eq_self h]
    exact ⟨fun i => ⟨rfl, rfl⟩, rfl⟩
  case brokenOff =>
    rw [hn, State.atReset_next hu]
    exact ⟨State.brokenOff_trace_of_append hnew n, fun i => rfl, State.brokenOff_dst_read_of_append hnew n⟩

end Sys2Proof.Machine
end

section
/-! PROOFS. What the block does without a command (O8) and without a transport (O9). -/

namespace Sys2Proof.Machine

/-- Settles O8: a step without reset is the plain one, which finds nothing to take off the port (R291). -/
theorem idleBlockWaitsForCommand : Obligations.IdleBlockWaitsForCommand := by
  intro s hr hi hp
  exact (step_released hr).trans (State.advance_waits hi hp)

/-! The bus parts refuse a block without a transport (R292; log entry 11). -/

section
variable {s : State} (ha : s.attached = false)
include ha

theorem State.withTransport_unattached (k : State → Answer) : s.withTransport k = .refused .noTransport := by
  simp [State.withTransport, ha]

/-- The front of SEND and SEND.ACK gets as far as the bus with every payload that is not too long (R131). -/
theorem State.sendBody_unattached {p : List Byte} (hl : p.length ≤ 254) (k : State → State) :
    s.sendBody p k = .refused .noTransport := by
  have hfits : tooLong (s.presentPin p).pin.contents = false := by
    simp [tooLong, Config.maxPayload, hl]
  simp only [State.sendBody, hfits, Bool.false_eq_true, if_false]
  exact State.withTransport_unattached (s := s.presentPin p) ha _

end

/-- Settles O9: accepted by the idle block, an operation is refused where it comes to the bus; TooMuchData is raised before
that, and the primitives never come to it. -/
theorem busOperationsNeedTransport : Obligations.BusOperationsNeedTransport := by
  intro s hi ha
  have hreceive (k : State → Answer) : s.accept (fun u => u.withTransport k) = .refused .noTransport :=
    (State.accept_idle hi _).trans (State.withTransport_unattached (s := s.begin) ha k)
  have hsend {p : List Byte} (hl : p.length ≤ 254) (k : State → State) :
      s.accept (fun u => u.sendBody p k) = .refused .noTransport :=
    (State.accept_idle hi _).trans (State.sendBody_unattached (s := s.begin) ha hl k)
  exact ⟨fun d => hreceive _, fun d t => hreceive _, hreceive _, fun p hl => ⟨hsend hl _, hsend hl _⟩,
    fun p => sendRejectsLongPayload p s hi,
    fun xs => ⟨_, _, exec_preScan_next.mpr ⟨hi, rfl⟩, exec_hdrParse_next.mpr ⟨hi, rfl⟩⟩,
    fun seed xs => ⟨_, exec_csumFold_next.mpr ⟨hi, rfl⟩⟩⟩

end Sys2Proof.Machine
end

section
/-! PROOFS. The round trip (O59; D14): the loopback's answer to a written frame is a ready window that carries the payload. -/

namespace Sys2Proof.Machine

open Sys2Proof.Claims

/-- The data checksum byte of the source's formula cancels the sum it is taken of (R94). -/
theorem add_checksumByte_mod (n : Nat) : (n + (BitVec.ofNat 8 ((256 - n % 256) % 256)).toNat) % 256 = 0 := by
  rw [BitVec.toNat_ofNat]
  omega

section
variable {p : List Byte}

/-- The loopback answers with a status byte and the same frame, its TFI 0xD5 and its DCS made anew. -/
theorem deviceReply_frameOf (p : List Byte) :
    deviceReply (frameOf p) =
      [0x01#8] ++ 0x00#8 :: 0xFF#8 :: BitVec.ofNat 8 (p.length + 1) :: BitVec.ofNat 8 ((256 - (p.length + 1)) % 256) ::
        0xD5#8 :: (p ++ [BitVec.ofNat 8 ((256 - (0xD5 + total p) % 256) % 256)]) := by
  have hpayload : ((frameOf p).drop 5).dropLast = p := List.dropLast_concat
  rw [deviceReply, hpayload]
  rfl

theorem deviceReply_frameOf_length (p : List Byte) : (deviceReply (frameOf p)).length = p.length + 7 := by
  simp [deviceReply_frameOf]

/-- The window carries the payload behind its first pair, which ends at index 2: the status byte opens none. -/
theorem deviceReply_carriesFrame (hl : p.length ≤ 25) :
    CarriesFrame (deviceReply (frameOf p)) 2 (BitVec.ofNat 8 (p.length + 1)) p := by
  have hno : NoPair [0x01#8, 0x00#8] := by
    rintro (_ | _ | j) <;> simp [PairAt]
  have hlen : (BitVec.ofNat 8 (p.length + 1)).toNat = p.length + 1 := by
    rw [BitVec.toNat_ofNat]
    omega
  have hlcs : ((BitVec.ofNat 8 (p.length + 1)).toNat + (BitVec.ofNat 8 ((256 - (p.length + 1)) % 256)).toNat) % 256 = 0 := by
    rw [hlen, BitVec.toNat_ofNat]
    omega
  rw [deviceReply_frameOf]
  exact ⟨_, _, [], ⟨firstPair_append hno, rfl⟩, hlcs, hlen, add_checksumByte_mod _⟩

/-- It is ready, and with at most 25 bytes of payload it fits a read of 32 bytes whole (R65, R72). -/
theorem deviceReply_answers (hl : p.length ≤ 25) (took : Duration) :
    ReadAttempt.Answers ⟨.bytes (deviceReply (frameOf p)), took⟩ (.window (deviceReply (frameOf p))) := by
  have hfits : (deviceReply (frameOf p)).length ≤ 32 := by
    rw [deviceReply_frameOf_length]
    omega
  have hanswers := ReadAttempt.Answers.ready (deviceReply (frameOf p)) took rfl
  rwa [List.take_of_length_le hfits] at hanswers

end

/-- Settles O59: SEND leaves an idle block, whose first read is the loopback's answer to the frame, and RECV delivers from it. -/
theorem roundTripThroughDevice : Obligations.RoundTripThroughDevice := by
  intro p dcap took later s hs hl hd
  have hsend := sendWritesOneFrame p s hs (by omega) hd
  obtain ⟨c, d, trail, hhdr, hsum, hlen, hdcs⟩ := deviceReply_carriesFrame hl
  refine ⟨_, frameOf p, hsend, rfl, ?_⟩
  obtain ⟨dst, hrecv, hdst⟩ := recvDeliversPayload dcap 2 [] later _ _ p trail _ c d
    { okEnd .none (afterWrite p .ok (framed p s)) with reads := ⟨.bytes (deviceReply (frameOf p)), took⟩ :: later }
    ⟨rfl, hs.2⟩ ⟨rfl, nofun, deviceReply_answers hl took⟩ hhdr hsum hlen hdcs
  exact ⟨_, hrecv, rfl, rfl, hdst, rfl⟩

end Sys2Proof.Machine
end
